-- ==== Sys2Proof/Word.lean ====
section
/-! DEFINITION. The types every rule uses (00_scope.md R12): words, trits, levels, segments, pins. -/

namespace Sys2Proof

/-- A packed telegram (30_encoding.md R60). -/
abbrev Word32 := BitVec 32
/-- The PERIOD field, 0..511 microseconds (00_scope.md R5, W_PERIOD). -/
abbrev Period9 := BitVec 9
/-- The REPLOG field, 0..7 (00_scope.md R5, W_REPEAT). -/
abbrev Rep3 := BitVec 3
/-- The payload a packed telegram keeps (00_scope.md R5, W_PAYLOAD). -/
abbrev Payload20 := BitVec 20
/-- The raw trit region, 2 bits for each of 12 trits (00_scope.md R5, W_RAW). -/
abbrev Raw24 := BitVec 24
/-- A 2-bit trit code (30_encoding.md R62). -/
abbrev Code2 := BitVec 2
/-- The selector OP of a command (30_encoding.md R68). -/
abbrev Selector := BitVec 3

/-- The tri-state symbol (00_scope.md R12). A FLOAT trit is never a pin level. -/
inductive Trit where
  | low
  | high
  | float
deriving DecidableEq, Repr, Inhabited

/-- A level of `gpio.write` (00_scope.md R12). The block drives no third level (41_transmitter.md R117). -/
inductive Level where
  | low
  | high
deriving DecidableEq, Repr, Inhabited

/-- One waveform segment `(level, k)`: the pin at `level` for `k` periods (00_scope.md R12). -/
abbrev Seg := Level × Nat

/-- The trits of a telegram, exactly 12, index 0 first (00_scope.md R12, 10_state.md R25). -/
abbrev Body := Vector Trit 12

/-- An identifier of a digital output (00_scope.md R7). DESIGN CHOICE (log 1, safe): pins are numbered,
`p0` is `⟨0⟩`; the block only compares identifiers. -/
structure PinId where
  index : Nat
deriving DecidableEq, Repr, Inhabited

/-- How many telegrams a send has: the values 1 and 2 of NTEL (10_state.md R25). -/
inductive Telegrams where
  | one
  | two
deriving DecidableEq, Repr, Inhabited

/-- HOST_BYTE_ORDER (20_memory.md R42): how a host that stores a telegram as bytes orders them. DESIGN CHOICE
(log 16, safe): the two usual orders. It never arises inside the block. -/
inductive ByteOrder where
  | little
  | big
deriving DecidableEq, Repr, Inhabited

end Sys2Proof
end

