-- ==== Sys2Proof/Syntax.lean ====
section
/-! DEFINITION. The commands of the block: one constructor of `Instr` for each row of
spec/opcode_table.json (30_encoding.md R68), and the form in which a command reaches the block:
a selector and the operands of its format (R70, R71). -/

namespace Sys2Proof

/-- The six operations with their operands (30_encoding.md R68, R70). A natural operand may carry any
value and a trit list any length, so that a malformed operand can be written down and rejected. -/
inductive Instr where
  /-- PACK, OP 000, format F_TT (40_codec.md R80). -/
  | pack (trits : List Trit) (period replog : Nat)
  /-- UNPACK, OP 001, format F_W (40_codec.md R81). -/
  | unpack (w : Word32)
  /-- SAME_CODE, OP 010, format F_WW (40_codec.md R82). -/
  | sameCode (a b : Word32)
  /-- SEND_PACKED, OP 011, format F_WP (41_transmitter.md R107). -/
  | sendPacked (w : Word32) (pin : PinId)
  /-- SEND_TRITS, OP 100, format F_TTP (41_transmitter.md R106). -/
  | sendTrits (trits : List Trit) (period replog : Nat) (pin : PinId)
  /-- SEND_PAIR, OP 101, format F_PPTP (41_transmitter.md R108). -/
  | sendPair (pa pb period replog : Nat) (pin : PinId)
deriving DecidableEq, Repr

/-- One operand value of a command, of one of the types of 30_encoding.md R70. -/
inductive Operand where
  | trits (t : List Trit)
  | nat (n : Nat)
  | word (w : Word32)
  | pin (p : PinId)
deriving DecidableEq, Repr

/-- A command as the host passes it: the selector and its operand values in the order of the `operands`
column of 30_encoding.md R68. DESIGN CHOICE (log 6, safe): the spec gives operands no bits, so they
stay typed values. -/
structure Command where
  op : Selector
  operands : List Operand
deriving DecidableEq, Repr

end Sys2Proof
end

