-- ==== Sys2Proof/Decode.lean ====
section
/-! DEFINITION. The selector decoder (30_encoding.md R68, R69, R71), the encoder, and the reading of an
opcode-table word. -/

namespace Sys2Proof

/-- What the decoder makes of a command. -/
inductive Decoded where
  /-- A command of 30_encoding.md R68. -/
  | instr (i : Instr)
  /-- OP 0b110 or 0b111 (30_encoding.md R69). -/
  | reservedOp (op : Selector)
  /-- The operands are not those of the selector's format: no command at all (30_encoding.md R71, log 6). -/
  | malformedOperands (op : Selector)
deriving DecidableEq, Repr

/-- The selector decoder. It is total, and a reserved OP is found before any operand is read
(30_encoding.md R68, R69, R71). -/
def decode (c : Command) : Decoded :=
  match c.op with
  | 0b000#3 =>
    match c.operands with
    | [.trits t, .nat p, .nat r] => .instr (.pack t p r)
    | _ => .malformedOperands c.op
  | 0b001#3 =>
    match c.operands with
    | [.word w] => .instr (.unpack w)
    | _ => .malformedOperands c.op
  | 0b010#3 =>
    match c.operands with
    | [.word a, .word b] => .instr (.sameCode a b)
    | _ => .malformedOperands c.op
  | 0b011#3 =>
    match c.operands with
    | [.word w, .pin p] => .instr (.sendPacked w p)
    | _ => .malformedOperands c.op
  | 0b100#3 =>
    match c.operands with
    | [.trits t, .nat p, .nat r, .pin q] => .instr (.sendTrits t p r q)
    | _ => .malformedOperands c.op
  | 0b101#3 =>
    match c.operands with
    | [.nat pa, .nat pb, .nat p, .nat r, .pin q] => .instr (.sendPair pa pb p r q)
    | _ => .malformedOperands c.op
  | _ => .reservedOp c.op

/-- The command that carries an instruction (30_encoding.md R68: selector, then operands in order). -/
def encode : Instr → Command
  | .pack t p r => ⟨0b000#3, [.trits t, .nat p, .nat r]⟩
  | .unpack w => ⟨0b001#3, [.word w]⟩
  | .sameCode a b => ⟨0b010#3, [.word a, .word b]⟩
  | .sendPacked w p => ⟨0b011#3, [.word w, .pin p]⟩
  | .sendTrits t p r q => ⟨0b100#3, [.trits t, .nat p, .nat r, .pin q]⟩
  | .sendPair pa pb p r q => ⟨0b101#3, [.nat pa, .nat pb, .nat p, .nat r, .pin q]⟩

/-- The operands of zeros that the selector's format takes (30_encoding.md R70): the number 0, the word 0,
the pin p0, and 12 trits of code 0b00, which is LOW. None for a reserved selector. DESIGN CHOICE (log 17). -/
def zeroOperands (op : Selector) : List Operand :=
  match op with
  | 0b000#3 => [.trits (List.replicate 12 .low), .nat 0, .nat 0]
  | 0b001#3 => [.word 0#32]
  | 0b010#3 => [.word 0#32, .word 0#32]
  | 0b011#3 => [.word 0#32, .pin ⟨0⟩]
  | 0b100#3 => [.trits (List.replicate 12 .low), .nat 0, .nat 0, .pin ⟨0⟩]
  | 0b101#3 => [.nat 0, .nat 0, .nat 0, .nat 0, .pin ⟨0⟩]
  | _ => []

/-- The command an opcode-table word stands for: bits 2:0 are the selector, the table gives the operands
no bits, so they are zeros (spec/opcode_table.json, log 17). -/
def commandOfTableWord (nbits w : Nat) : Command :=
  let op : Selector := BitVec.ofNat 3 (w % 2 ^ nbits)
  ⟨op, zeroOperands op⟩

/-- The instruction the decoder reads from an opcode-table word. -/
def decodeTableWord (nbits w : Nat) : Option Instr :=
  match decode (commandOfTableWord nbits w) with
  | .instr i => some i
  | _ => none

end Sys2Proof
end

