-- ==== Sys2Proof/Config.lean ====
section
/-! DEFINITION. The constants of 00_scope.md R5, the instance's configuration (R6, R8), and the free
values: opaque constants with no body, of which nothing can be proved. -/

namespace Sys2Proof

/-- A finite map from pins to levels, an unlisted pin standing for `none` (unknown, 10_state.md R27).
Canonical form: `PinMap.wf`. -/
abbrev PinMap := List (PinId × Level)

/-- The canonical form: pin numbers strictly rising, so that equal maps are equal lists. -/
abbrev PinMap.wf (m : PinMap) : Prop := (m.map fun e => e.1.index).Pairwise (· < ·)

/-- TRIT_WAVE (00_scope.md R6): the segments of each trit's waveform. -/
structure TritWave where
  low : List Seg
  high : List Seg
  float : List Seg
deriving DecidableEq, Repr, Inhabited

/-- The pin level of each period a list of segments spells, in order (00_scope.md R6 (b)). -/
def levelSequence (segs : List Seg) : List Level := segs.flatMap fun sg => List.replicate sg.2 sg.1

/-- The periods a list of segments takes (00_scope.md R6 (a)). -/
def totalPeriods (segs : List Seg) : Nat := (segs.map fun sg => sg.2).sum

/-- The periods a list of segments spends HIGH (00_scope.md R6 (c)). -/
def highPeriods (segs : List Seg) : Nat :=
  (segs.map fun sg => if sg.1 = .high then sg.2 else 0).sum

/-- TRIT_PERIODS (00_scope.md R5). -/
def Config.tritPeriods : Nat := 6
/-- SYNC_HIGH (00_scope.md R5). -/
def Config.syncHigh : Nat := 1
/-- SYNC_LOW (00_scope.md R5). -/
def Config.syncLow : Nat := 31
/-- SYNC_PERIODS (00_scope.md R5). -/
def Config.syncPeriods : Nat := Config.syncHigh + Config.syncLow

/-- What 00_scope.md R6 asks of one trit's list: not empty, every k at least 1, and (a) 6 periods. -/
abbrev TritWave.SegsValid (segs : List Seg) : Prop :=
  segs ≠ [] ∧ (∀ sg ∈ segs, 1 ≤ sg.2) ∧ totalPeriods segs = Config.tritPeriods

/-- The conditions of 00_scope.md R6 on an instance's TRIT_WAVE: (a), (b) and (c). -/
abbrev TritWave.Valid (w : TritWave) : Prop :=
  (TritWave.SegsValid w.low ∧ TritWave.SegsValid w.high ∧ TritWave.SegsValid w.float) ∧
  (levelSequence w.low ≠ levelSequence w.high ∧ levelSequence w.low ≠ levelSequence w.float ∧
    levelSequence w.high ≠ levelSequence w.float) ∧
  (highPeriods w.low ≠ highPeriods w.high ∧ highPeriods w.low ≠ highPeriods w.float ∧
    highPeriods w.high ≠ highPeriods w.float)

/-- The default TRIT_WAVE (00_scope.md R6; its FLOAT is the spec's own choice, 90_conflicts.md C2). -/
def TritWave.default : TritWave where
  low := [(.high, 1), (.low, 5)]
  high := [(.high, 5), (.low, 1)]
  float := [(.high, 2), (.low, 4)]

/-- The configuration of an instance (10_state.md R23): TRIT_WAVE (00_scope.md R6) and PIN_INIT (R8).
It is fixed when the instance is built; no step writes it. -/
structure Config where
  tritWave : TritWave
  pinInit : PinMap
deriving DecidableEq, Repr, Inhabited

/-- A configuration an instance may have: TRIT_WAVE meets 00_scope.md R6, and PIN_INIT is in canonical form. -/
abbrev Config.Valid (c : Config) : Prop := c.tritWave.Valid ∧ PinMap.wf c.pinInit

/-- The default instance: TRIT_WAVE of 00_scope.md R6, PIN_INIT `none` for every pin (R8). -/
def Config.default : Config where
  tritWave := TritWave.default
  pinInit := []

/-- CLOCK_ERROR (00_scope.md R8): the error of the busy-wait that is event i of a trace, in microseconds. OPEN:
no rule of the spec, and nothing in the machine, depends on it. DESIGN CHOICE (log 15): R8 gives it no type and
R9 says no value of the spec is signed; here it is signed, so that a wait may end early or late, and a whole
number of microseconds. -/
opaque Config.clockError : Nat → Int
/-- CALL_OVERHEAD (00_scope.md R8): the time after event i of a trace that no wait asked for, in microseconds.
OPEN: no rule of the spec, and nothing in the machine, depends on it. DESIGN CHOICE (log 15): R8 gives it no type;
here it is a natural number of microseconds. -/
opaque Config.callOverhead : Nat → Nat

/-- HOST_BYTE_ORDER (20_memory.md R42). OPEN: it matters only to a host that stores the word as bytes; nothing in
the machine depends on it (log 16). -/
opaque Config.hostByteOrder : ByteOrder

/-! The free values of the position registers and operand latches once PHASE is IDLE again: "unspecified,
unread" (10_state.md R24, R25). Each is applied to State's `freeCount` (log 11). -/

/-- What TEL holds after a return to IDLE. -/
opaque Config.freeTel : Nat → BitVec 1
/-- What REP holds after a return to IDLE. -/
opaque Config.freeRep : Nat → BitVec 7
/-- What ELEM holds after a return to IDLE. -/
opaque Config.freeElem : Nat → BitVec 4
/-- What SEG holds after a return to IDLE. -/
opaque Config.freeSeg : Nat → BitVec 3
/-- What PIN holds after a return to IDLE. -/
opaque Config.freePin : Nat → PinId
/-- What P holds after a return to IDLE. -/
opaque Config.freePeriod : Nat → Period9
/-- What R holds after a return to IDLE. -/
opaque Config.freeReplog : Nat → Rep3
/-- What NTEL holds after a return to IDLE. -/
opaque Config.freeTelegrams : Nat → Telegrams
/-- What BODY[0] holds after a return to IDLE. -/
opaque Config.freeBodyA : Nat → Body
/-- What BODY[1] holds after a return to IDLE. -/
opaque Config.freeBodyB : Nat → Body

end Sys2Proof
end

