-- ==== Sys2Proof/Machine/State.lean ====
section
/-! DEFINITION. The state of the block (10_state.md R24, R25, R27, R28, R32), its reset (R33), and the
reasons a step can stop. -/

namespace Sys2Proof.Machine

/-- PHASE (10_state.md R24). -/
inductive Phase where
  /-- No send in flight. -/
  | idle
  /-- The next event is the Write of segment SEG. -/
  | write
  /-- The next event is the Wait of segment SEG. -/
  | wait
  /-- The next event is the closing Write LOW. -/
  | final
deriving DecidableEq, Repr

/-- The sequencer's position registers (10_state.md R24). -/
structure Position where
  /-- TEL: which telegram of the send, 0 = A, 1 = B. -/
  tel : BitVec 1
  /-- REP: index of the current repeat. -/
  rep : BitVec 7
  /-- ELEM: 0 is the sync pulse, e in 1..12 is trit e - 1. -/
  elem : BitVec 4
  /-- SEG: index of the segment inside the element. -/
  seg : BitVec 3
deriving DecidableEq, Repr

/-- The sequencer's operand latches (10_state.md R25). -/
structure Latches where
  /-- PIN: the pin the send drives. -/
  pin : PinId
  /-- P: the period in microseconds. -/
  period : Period9
  /-- R: repeat_log2. -/
  replog : Rep3
  /-- NTEL: the number of telegrams. -/
  ntel : Telegrams
  /-- BODY[0]: the trits of telegram A. -/
  bodyA : Body
  /-- BODY[1]: the trits of telegram B, unused when NTEL = 1. -/
  bodyB : Body
deriving DecidableEq, Repr

/-- An event of the trace (00_scope.md R11, 10_state.md R28): one call on a collaborator (60_exceptions.md R150). -/
inductive Event where
  /-- One call `gpio.write(pin, level)`. -/
  | write (pin : PinId) (level : Level)
  /-- One call `clock.busy_wait_microseconds(n)`. -/
  | wait (n : Nat)
deriving DecidableEq, Repr

/-- The causes of a rejection (60_exceptions.md R141); their codes are in Machine/Flags.lean. -/
inductive Reject where
  /-- E_OP_RESERVED: OP is 0b110 or 0b111. -/
  | opReserved
  /-- E_TRIT_COUNT: the trit list does not hold exactly 12 trits. -/
  | tritCount
  /-- E_PERIOD_RANGE: period > 511. -/
  | periodRange
  /-- E_REPEAT_RANGE: replog > 7. -/
  | repeatRange
  /-- E_PAYLOAD_RANGE: pa or pb > 0xFFFFF. -/
  | payloadRange
  /-- E_RESERVED_CODE: a payload to be sent holds the code 0b01 at an even bit offset. -/
  | reservedCode
deriving DecidableEq, Repr

/-- The result values of the codec commands (40_codec.md R80, R81, R82). -/
inductive Value where
  /-- PACK: the telegram word. -/
  | word (w : Word32)
  /-- UNPACK: period, repeat_log2 and payload. -/
  | fields (period : Period9) (replog : Rep3) (payload : Payload20)
  /-- SAME_CODE: a Boolean. -/
  | truth (b : Bool)
deriving DecidableEq, Repr

/-- What a command returns to the host (00_scope.md R11): status OK with a value or with none, or the
rejection's code and nothing else (60_exceptions.md R141, R142). -/
inductive Response where
  | ok (value : Option Value)
  | rejected (cause : Reject)
deriving DecidableEq, Repr

/-- The checked operands RUN is called with (41_transmitter.md R110): NTEL is 2 exactly when there is a
second body. -/
structure RunArgs where
  pin : PinId
  period : Period9
  replog : Rep3
  bodyA : Body
  bodyB : Option Body
deriving DecidableEq, Repr

/-- Why the machine stops. -/
inductive Fault where
  /-- Raised by the sequencer's WRITE and WAIT steps when the position registers name no segment of the
  send's waveform. No run from reset reaches it (log 12). Safe: the machine stops where the spec has no rule. -/
  | sequencerOffWaveform
deriving DecidableEq, Repr

/-- Why the model has no move. -/
inductive Refusal where
  /-- Raised by `exec`'s arms for an instruction that has no meaning yet. Safe. -/
  | notModelled (mnemonic : String)
  /-- Raised by every command's meaning when a send is in flight: 60_exceptions.md R153, "no step: the
  model has no move for it". Safe. -/
  | commandWhileBusy
  /-- Raised by `hostReset` when a send is in flight: 70_reset_and_hazards.md R161, "A model refuses such
  a reset". Safe. -/
  | resetDuringSend
  /-- Raised by `step` when the operands the host passes are not those of the selector's format, which is
  no command (30_encoding.md R71, log 6). Safe. -/
  | malformedOperands
deriving DecidableEq, Repr

/-- The machine's state: the spec's own state (10_state.md R32), the instance's configuration, and the
model's own fields (INVENTORY.md). -/
structure State where
  /-- PHASE (10_state.md R24). -/
  phase : Phase
  /-- TEL, REP, ELEM, SEG (10_state.md R24). -/
  pos : Position
  /-- PIN, P, R, NTEL, BODY (10_state.md R25). -/
  latch : Latches
  /-- PINLVL (10_state.md R27), in the canonical form `PinMap.wf`. -/
  pinlvl : PinMap
  /-- TRACE (10_state.md R28), oldest event first. -/
  trace : List Event
  /-- The instance's TRIT_WAVE and PIN_INIT (00_scope.md R6, R8): read, never written (log 2). -/
  config : Config
  /-- The model's: the commands the host has still to issue, next one first (log 5). -/
  inbox : List Command
  /-- The model's: what the last command that returned gave the host; none before the first one and
  while a send is in flight (log 8). -/
  response : Option Response
  /-- The model's: the counter the free values are applied to (log 11). -/
  freeCount : Nat
deriving DecidableEq, Repr

/-- Reset values of the position registers. DESIGN CHOICE (log 10, unsafe): 10_state.md R33 gives none. -/
def Position.reset : Position where
  tel := 0
  rep := 0
  elem := 0
  seg := 0

/-- Reset values of the operand latches. DESIGN CHOICE (log 10, unsafe): 10_state.md R33 gives none. -/
def Latches.reset : Latches where
  pin := ⟨0⟩
  period := 0
  replog := 0
  ntel := .one
  bodyA := Vector.replicate 12 .low
  bodyB := Vector.replicate 12 .low

/-- The reset state of an instance (10_state.md R33, 70_reset_and_hazards.md R160): PHASE is IDLE, PINLVL
is PIN_INIT, TRACE is empty. -/
def State.resetOf (c : Config) : State where
  phase := .idle
  pos := Position.reset
  latch := Latches.reset
  pinlvl := c.pinInit
  trace := []
  config := c
  inbox := []
  response := none
  freeCount := 0

/-- The machine after reset: the default instance (00_scope.md R6, R8; log 3). -/
def State.reset : State := State.resetOf Config.default

end Sys2Proof.Machine
end

