-- ==== Sys2Proof/Machine/Telegram.lean ====
section
/-! DEFINITION. The packed telegram word and the 2-bit trit code (30_encoding.md R60 to R66). -/

namespace Sys2Proof.Machine

/-- `period(w) = w[31:23]` (30_encoding.md R61). -/
def periodOf (w : Word32) : Period9 := w.extractLsb' 23 9

/-- `replog(w) = w[22:20]` (30_encoding.md R61; bit 22 is REPLOG bit 2, 90_conflicts.md C1). -/
def replogOf (w : Word32) : Rep3 := w.extractLsb' 20 3

/-- `payload(w) = w[19:0]` (30_encoding.md R61). -/
def payloadOf (w : Word32) : Payload20 := w.extractLsb' 0 20

/-- `REPEATS(r) = 2 ^ r`, 1..128 (00_scope.md R5). -/
def repeats (r : Rep3) : Nat := 2 ^ r.toNat

/-- `repeats(w) = 2 ^ replog(w)` (30_encoding.md R61). -/
def repeatsOf (w : Word32) : Nat := repeats (replogOf w)

/-- `telegram(p, r, pl)` (30_encoding.md R61). -/
def telegram (p : Period9) (r : Rep3) (pl : Payload20) : Word32 :=
  (p.setWidth 32 <<< 23) ||| (r.setWidth 32 <<< 20) ||| pl.setWidth 32

/-- The bytes a host that stores a telegram in its own memory writes, lowest address first (20_memory.md R42,
log 16). The block itself never splits a word. -/
def hostBytes (o : ByteOrder) (w : Word32) : List (BitVec 8) :=
  let b := [w.extractLsb' 0 8, w.extractLsb' 8 8, w.extractLsb' 16 8, w.extractLsb' 24 8]
  match o with
  | .little => b
  | .big => b.reverse

/-- `code` (30_encoding.md R62). -/
def tritCode : Trit → Code2
  | .low => 0b00#2
  | .high => 0b11#2
  | .float => 0b10#2

/-- `decode` (30_encoding.md R62, R63): undefined, here `none`, on the reserved code 0b01. -/
def tritOfCode (c : Code2) : Option Trit :=
  match c with
  | 0b00#2 => some .low
  | 0b11#2 => some .high
  | 0b10#2 => some .float
  | _ => none

/-- `RAW24(t)`, the sum of `code(t[i]) << 2 * (11 - i)` (30_encoding.md R64): trit 0 in bits 23:22. -/
def raw24 (t : Body) : Raw24 :=
  ((List.range 12).map fun i => ((tritCode (t.toList.getD i .low)).setWidth 24 <<< (2 * (11 - i)) : Raw24)).sum

/-- `PAYLOAD20(t) = RAW24(t)[19:0]` (30_encoding.md R65). -/
def payload20 (t : Body) : Payload20 := (raw24 t).extractLsb' 0 20

/-- `c_i = zext_24(pl)[23-2i : 22-2i]` (30_encoding.md R66). -/
def replayCode (pl : Payload20) (i : Nat) : Code2 := (pl.setWidth 24).extractLsb' (22 - 2 * i) 2

/-- A list of exactly 12 trits as a telegram body (00_scope.md R12). -/
def bodyOfList (l : List Trit) : Option Body :=
  if h : l.length = 12 then some ⟨⟨l⟩, h⟩ else none

/-- The trits of a list of codes; `none` if some code is 0b01 (30_encoding.md R63). -/
def tritsOfCodes : List Code2 → Option (List Trit)
  | [] => some []
  | c :: cs =>
    match tritOfCode c, tritsOfCodes cs with
    | some t, some ts => some (t :: ts)
    | _, _ => none

/-- `replay(pl)` (30_encoding.md R66): 12 trits, trit 0 first, or undefined if some code is 0b01. -/
def replay (pl : Payload20) : Option Body :=
  match tritsOfCodes ((List.range 12).map (replayCode pl)) with
  | some l => bodyOfList l
  | none => none

end Sys2Proof.Machine
end

