-- ==== Sys2Proof/Machine/Operands.lean ====
section
/-! DEFINITION. The operand checks (30_encoding.md R70, 60_exceptions.md R141): each turns an operand as
the host passes it into the value the operation works on, or names the rejection. -/

namespace Sys2Proof.Machine

/-- A trit-list operand: exactly 12 trits, E_TRIT_COUNT otherwise. -/
def tritsOperand (l : List Trit) : Except Reject Body :=
  match bodyOfList l with
  | some b => .ok b
  | none => .error .tritCount

/-- A period operand: at most 511, E_PERIOD_RANGE otherwise. Never truncated or wrapped (40_codec.md R80). -/
def periodOperand (n : Nat) : Except Reject Period9 :=
  if n > 511 then .error .periodRange else .ok (BitVec.ofNat 9 n)

/-- A replog operand: at most 7, E_REPEAT_RANGE otherwise. -/
def replogOperand (n : Nat) : Except Reject Rep3 :=
  if n > 7 then .error .repeatRange else .ok (BitVec.ofNat 3 n)

/-- A payload operand of SEND_PAIR: at most 0xFFFFF, E_PAYLOAD_RANGE otherwise. -/
def payloadOperand (n : Nat) : Except Reject Payload20 :=
  if n > 0xFFFFF then .error .payloadRange else .ok (BitVec.ofNat 20 n)

/-- A payload to be sent: its 12 replayed trits, E_RESERVED_CODE if a code is 0b01 (30_encoding.md R63). -/
def replayOperand (pl : Payload20) : Except Reject Body :=
  match replay pl with
  | some b => .ok b
  | none => .error .reservedCode

end Sys2Proof.Machine
end

