-- ==== Sys2Proof/Machine/Waveform.lean ====
section
/-! DEFINITION. The waveform as data: segments, bodies, plans, events (41_transmitter.md R100 to R105), the
normative big-step form, and the measures its laws speak of (R115, R116, R121). -/

namespace Sys2Proof.Machine

/-- `SYNC` (41_transmitter.md R100): HIGH for 1 period, LOW for 31. -/
def sync : List Seg := [(.high, Config.syncHigh), (.low, Config.syncLow)]

/-- `TRIT_WAVE(x)` (00_scope.md R6, 41_transmitter.md R101). -/
def tritSegs (w : TritWave) : Trit → List Seg
  | .low => w.low
  | .high => w.high
  | .float => w.float

/-- `body(t)` (41_transmitter.md R102): the sync, then trits 0 to 11. -/
def bodySegs (w : TritWave) (t : Body) : List Seg := sync ++ t.toList.flatMap (tritSegs w)

/-- `plan(bodies, R)` (41_transmitter.md R103): all 2^R repeats of one telegram, then those of the next. -/
def plan (w : TritWave) (bodies : List Body) (r : Rep3) : List Seg :=
  bodies.flatMap fun t => (List.replicate (repeats r) (bodySegs w t)).flatten

/-- The events of one segment (41_transmitter.md R104): one Write, then one Wait, even a Wait of 0. -/
def segEvents (pin : PinId) (p : Period9) (sg : Seg) : List Event :=
  [.write pin sg.1, .wait (sg.2 * p.toNat)]

/-- `events(pin, P, segs)` (41_transmitter.md R104, R105): the segments' events, then the closing Write LOW. -/
def events (pin : PinId) (p : Period9) (segs : List Seg) : List Event :=
  segs.flatMap (segEvents pin p) ++ [.write pin .low]

/-- The bodies a RUN is called with (41_transmitter.md R110). -/
def runBodies (a : RunArgs) : List Body :=
  match a.bodyB with
  | none => [a.bodyA]
  | some b => [a.bodyA, b]

/-- The trace of a send that is not rejected (41_transmitter.md R106 to R108). -/
def runEvents (w : TritWave) (a : RunArgs) : List Event :=
  events a.pin a.period (plan w (runBodies a) a.replog)

/-- The steps a send takes after RUN (41_transmitter.md R109): two for each segment of its plan, and one. -/
def runSteps (w : TritWave) (a : RunArgs) : Nat := 2 * (plan w (runBodies a) a.replog).length + 1

/-- The microseconds an event asks to wait. -/
def waitOf : Event → Nat
  | .write _ _ => 0
  | .wait n => n

/-- The sum of the Wait arguments of a trace: its requested duration (41_transmitter.md R115). -/
def waitSum (l : List Event) : Nat := (l.map waitOf).sum

/-- Is the event a Write? -/
def isWrite : Event → Bool
  | .write _ _ => true
  | .wait _ => false

/-- The number of Write events (41_transmitter.md R116). -/
def writeCount (l : List Event) : Nat := l.countP isWrite

/-- The number of Wait events (41_transmitter.md R116). -/
def waitCount (l : List Event) : Nat := l.countP fun e => !isWrite e

/-- The level changes of one pin along a trace, from a known level (41_transmitter.md R116). -/
def levelChanges (pin : PinId) : Level → List Event → Nat
  | _, [] => 0
  | l, .wait _ :: es => levelChanges pin l es
  | l, .write q l' :: es =>
    if q = pin then (if l' = l then 0 else 1) + levelChanges pin l' es else levelChanges pin l es

/-- The requested timeline (41_transmitter.md R121): for each segment its requested start in microseconds
after the send's first Write, its level, and its requested duration. -/
def timeline (p : Period9) : Nat → List Seg → List (Nat × Level × Nat)
  | _, [] => []
  | t, sg :: rest => (t, sg.1, sg.2 * p.toNat) :: timeline p (t + sg.2 * p.toNat) rest

/-- The wall time of a trace whose first event is the i-th of the run: each Wait with its CLOCK_ERROR, each
event with its CALL_OVERHEAD (00_scope.md R8, 41_transmitter.md R121). Both are opaque, so nothing bounds
it (70_reset_and_hazards.md R169). DESIGN CHOICE (log 15): it is signed, because CLOCK_ERROR is. -/
def wallTime : Nat → List Event → Int
  | _, [] => 0
  | i, .write _ _ :: es => Config.callOverhead i + wallTime (i + 1) es
  | i, .wait n :: es => n + Config.clockError i + Config.callOverhead i + wallTime (i + 1) es

end Sys2Proof.Machine
end

