-- ==== Sys2Proof/Machine/Ops.lean ====
section
/-! DEFINITION. The operations every meaning is made of: pin levels, the trace, accepting a command,
returning from it, rejecting it, RUN's start, and a reset by the host. -/

namespace Sys2Proof.Machine

/-- `PINLVL[p]` (10_state.md R27): `none` means unknown, not LOW. -/
def readPin (m : PinMap) (p : PinId) : Option Level :=
  match m with
  | [] => none
  | (q, l) :: rest => if q = p then some l else readPin rest p

/-- `PINLVL[p] <- some l` (10_state.md R27); it keeps the canonical form. -/
def writePin (m : PinMap) (p : PinId) (l : Level) : PinMap :=
  match m with
  | [] => [(p, l)]
  | (q, k) :: rest =>
    if p.index < q.index then (p, l) :: (q, k) :: rest
    else if q.index < p.index then (q, k) :: writePin rest p l
    else (p, l) :: rest

/-- What an event does to PINLVL: only a Write changes it (10_state.md R27). -/
def pinAfter (m : PinMap) (e : Event) : PinMap :=
  match e with
  | .write p l => writePin m p l
  | .wait _ => m

/-- `Emit(e)` (00_scope.md R11): append to TRACE (10_state.md R28); a Write also sets PINLVL (R27). -/
def emit (e : Event) (s : State) : State :=
  { s with trace := s.trace ++ [e], pinlvl := pinAfter s.pinlvl e }

/-- `return (OK, v)` and `raise Reject(code)` (00_scope.md R11): the command ends and the host has its
result. Nothing else changes (60_exceptions.md R142). -/
def respond (r : Response) (s : State) : State := { s with response := some r }

/-- Taking a rejection (60_exceptions.md R140, R142): the code is the whole report; no trap is entered (R148). -/
def reject (c : Reject) (s : State) : State := respond (.rejected c) s

/-- A command is accepted only while PHASE = IDLE; else the model has no move (60_exceptions.md R153, log 13). -/
def accept (s next : State) : Host.Outcome State Fault Refusal :=
  if s.phase = .idle then .next next else .refused .commandWhileBusy

/-- A codec command returns its value or its rejection; it writes no state (10_state.md R30). -/
def finish (r : Except Reject Value) (s : State) : State :=
  match r with
  | .ok v => respond (.ok (some v)) s
  | .error c => reject c s

/-- RUN up to its first step (41_transmitter.md R110): latch the operands, point at the first sync segment.
The call has not returned, so there is no response. BODY[1] is written only by a two-telegram RUN (log 18). -/
def startRun (a : RunArgs) (s : State) : State :=
  { s with
    phase := .write
    pos := { tel := 0, rep := 0, elem := 0, seg := 0 }
    latch :=
      { pin := a.pin
        period := a.period
        replog := a.replog
        ntel := if a.bodyB.isSome then .two else .one
        bodyA := a.bodyA
        bodyB := a.bodyB.getD s.latch.bodyB }
    response := none }

/-- A send command: rejected before any event, or RUN (41_transmitter.md R106 to R108). -/
def launch (r : Except Reject RunArgs) (s : State) : State :=
  match r with
  | .ok a => startRun a s
  | .error c => reject c s

/-- The position registers once PHASE is IDLE again: unspecified (10_state.md R24), so free values (log 11). -/
def freePosition (n : Nat) : Position where
  tel := Config.freeTel n
  rep := Config.freeRep n
  elem := Config.freeElem n
  seg := Config.freeSeg n

/-- The latches once PHASE is IDLE again: unspecified (10_state.md R25), so free values (log 11). -/
def freeLatches (n : Nat) : Latches where
  pin := Config.freePin n
  period := Config.freePeriod n
  replog := Config.freeReplog n
  ntel := Config.freeTelegrams n
  bodyA := Config.freeBodyA n
  bodyB := Config.freeBodyB n

/-- `PHASE <- IDLE` at the end of a send (41_transmitter.md R113). -/
def goIdle (s : State) : State :=
  { s with
    phase := .idle
    pos := freePosition s.freeCount
    latch := freeLatches s.freeCount
    freeCount := s.freeCount + 1 }

/-- A command with a reserved OP: rejected with E_OP_RESERVED, its operands unread (30_encoding.md R69). -/
def execReserved (s : State) : Host.Outcome State Fault Refusal := accept s (reject .opReserved s)

/-- A reset by the host (70_reset_and_hazards.md R160): the reset values of the same instance; the commands
the host has still to issue are its own and stay, and so does the model's counter of free values. During a send it is refused (R161). It is no command, so
no instruction calls it (log 14). -/
def hostReset (s : State) : Host.Outcome State Fault Refusal :=
  if s.phase = .idle then .next { State.resetOf s.config with inbox := s.inbox, freeCount := s.freeCount }
  else .refused .resetDuringSend

end Sys2Proof.Machine
end

