-- ==== Sys2Proof/Machine/Codec.lean ====
section
/-! DEFINITION. The codec operations PACK, UNPACK, SAME_CODE (40_codec.md): pure functions, and their
commands. -/

namespace Sys2Proof.Machine

/-- PACK (40_codec.md R80): checks in the order of 60_exceptions.md R144, then the word. -/
def pack (trits : List Trit) (period replog : Nat) : Except Reject Word32 := do
  let t ← tritsOperand trits
  let p ← periodOperand period
  let r ← replogOperand replog
  return telegram p r (payload20 t)

/-- SAME_CODE (40_codec.md R82): bits 31:20 of both are ignored. -/
def sameCode (a b : Word32) : Bool := payloadOf a == payloadOf b

/-- The PACK command (40_codec.md R80). -/
def execPack (trits : List Trit) (period replog : Nat) (s : State) : Host.Outcome State Fault Refusal :=
  accept s (finish ((pack trits period replog).map .word) s)

/-- The UNPACK command (40_codec.md R81): total on all words. -/
def execUnpack (w : Word32) (s : State) : Host.Outcome State Fault Refusal :=
  accept s (finish (.ok (.fields (periodOf w) (replogOf w) (payloadOf w))) s)

/-- The SAME_CODE command (40_codec.md R82): total. -/
def execSameCode (a b : Word32) (s : State) : Host.Outcome State Fault Refusal :=
  accept s (finish (.ok (.truth (sameCode a b))) s)

end Sys2Proof.Machine
end

