-- ==== Sys2Proof/Machine/Transmitter.lean ====
section
/-! DEFINITION. The send operations SEND_TRITS, SEND_PACKED, SEND_PAIR (41_transmitter.md R106 to R108): all
checks, then RUN. The events follow from the sequencer's steps (Machine/Sequencer.lean). -/

namespace Sys2Proof.Machine

/-- The checks of SEND_TRITS (41_transmitter.md R106). -/
def sendTritsArgs (trits : List Trit) (period replog : Nat) (pin : PinId) : Except Reject RunArgs := do
  let t ← tritsOperand trits
  let p ← periodOperand period
  let r ← replogOperand replog
  return { pin := pin, period := p, replog := r, bodyA := t, bodyB := none }

/-- The checks of SEND_PACKED (41_transmitter.md R107): only the codes can be wrong. -/
def sendPackedArgs (w : Word32) (pin : PinId) : Except Reject RunArgs := do
  let t ← replayOperand (payloadOf w)
  return { pin := pin, period := periodOf w, replog := replogOf w, bodyA := t, bodyB := none }

/-- The checks of SEND_PAIR (41_transmitter.md R108): both payloads, before the first event. -/
def sendPairArgs (pa pb period replog : Nat) (pin : PinId) : Except Reject RunArgs := do
  let p ← periodOperand period
  let r ← replogOperand replog
  let a ← payloadOperand pa
  let b ← payloadOperand pb
  let ta ← replayOperand a
  let tb ← replayOperand b
  return { pin := pin, period := p, replog := r, bodyA := ta, bodyB := some tb }

/-- The SEND_TRITS command (41_transmitter.md R106): all 12 trits go out, without packing. -/
def execSendTrits (trits : List Trit) (period replog : Nat) (pin : PinId) (s : State) :
    Host.Outcome State Fault Refusal :=
  accept s (launch (sendTritsArgs trits period replog pin) s)

/-- The SEND_PACKED command (41_transmitter.md R107): period, repeats and payload from the word. -/
def execSendPacked (w : Word32) (pin : PinId) (s : State) : Host.Outcome State Fault Refusal :=
  accept s (launch (sendPackedArgs w pin) s)

/-- The SEND_PAIR command (41_transmitter.md R108): two telegrams with one timing. -/
def execSendPair (pa pb period replog : Nat) (pin : PinId) (s : State) :
    Host.Outcome State Fault Refusal :=
  accept s (launch (sendPairArgs pa pb period replog pin) s)

end Sys2Proof.Machine
end

