-- ==== Sys2Proof/Machine/Dispatch.lean ====
section
/-! DEFINITION. What each instruction does: one arm a constructor, each one call of its meaning. -/

namespace Sys2Proof.Machine

def exec (i : Instr) (s : State) : Host.Outcome State Fault Refusal :=
  match i with
  | .pack trits period replog => Sys2Proof.Machine.execPack trits period replog s
  | .unpack w => Sys2Proof.Machine.execUnpack w s
  | .sameCode a b => Sys2Proof.Machine.execSameCode a b s
  | .sendPacked w pin => Sys2Proof.Machine.execSendPacked w pin s
  | .sendTrits trits period replog pin => Sys2Proof.Machine.execSendTrits trits period replog pin s
  | .sendPair pa pb period replog pin => Sys2Proof.Machine.execSendPair pa pb period replog pin s

end Sys2Proof.Machine
end

