-- ==== Sys2Proof/Machine/Sequencer.lean ====
section
/-! DEFINITION. The transmitter's sequencer, the small-step form of a send (41_transmitter.md R110 to R114).
Each step emits exactly one event. -/

namespace Sys2Proof.Machine

/-- `BODY[tel]` (10_state.md R25). -/
def bodyAt (la : Latches) (tel : BitVec 1) : Body := if tel = 0 then la.bodyA else la.bodyB

/-- `NTEL` as a number (10_state.md R25). -/
def telegramCount : Telegrams → Nat
  | .one => 1
  | .two => 2

/-- `segs(tel, e)` (41_transmitter.md R110): the sync for e = 0, else the waveform of trit e - 1. An e above
12 names no element: no segments. -/
def elemSegs (w : TritWave) (la : Latches) (tel : BitVec 1) (e : BitVec 4) : List Seg :=
  if e = 0 then sync
  else
    match (bodyAt la tel).toList[e.toNat - 1]? with
    | some x => tritSegs w x
    | none => []

/-- The segments of the element the position registers name. -/
def currentSegs (s : State) : List Seg := elemSegs s.config.tritWave s.latch s.pos.tel s.pos.elem

/-- The segment the position registers name, `segs(TEL, ELEM)[SEG]`. -/
def currentSeg (s : State) : Option Seg := (currentSegs s)[s.pos.seg.toNat]?

/-- The WRITE step (41_transmitter.md R111). -/
def seqWrite (s : State) : Host.Outcome State Fault Refusal :=
  match currentSeg s with
  | some sg => .next { emit (.write s.latch.pin sg.1) s with phase := .wait }
  | none => .fault .sequencerOffWaveform

/-- The position and phase after a Wait (41_transmitter.md R112): the segment moves first, then the element,
then the repeat, then the telegram. -/
def advance (s : State) : Position × Phase :=
  if s.pos.seg.toNat + 1 < (currentSegs s).length then
    ({ s.pos with seg := s.pos.seg + 1 }, .write)
  else if s.pos.elem.toNat < 12 then
    ({ s.pos with seg := 0, elem := s.pos.elem + 1 }, .write)
  else if s.pos.rep.toNat + 1 < repeats s.latch.replog then
    ({ s.pos with seg := 0, elem := 0, rep := s.pos.rep + 1 }, .write)
  else if s.pos.tel.toNat + 1 < telegramCount s.latch.ntel then
    ({ tel := s.pos.tel + 1, rep := 0, elem := 0, seg := 0 }, .write)
  else (s.pos, .final)

/-- The WAIT step (41_transmitter.md R112). -/
def seqWait (s : State) : Host.Outcome State Fault Refusal :=
  match currentSeg s with
  | some sg =>
    .next { emit (.wait (sg.2 * s.latch.period.toNat)) s with pos := (advance s).1, phase := (advance s).2 }
  | none => .fault .sequencerOffWaveform

/-- The FINAL step (41_transmitter.md R113): the closing Write LOW (R105), PHASE is IDLE again, and the
SEND command returns (OK, ·). -/
def seqFinal (s : State) : State :=
  respond (.ok none) (goIdle (emit (.write s.latch.pin .low) s))

/-- One step of a send in flight (41_transmitter.md R111 to R113). With none in flight nothing moves. -/
def seqStep (s : State) : Host.Outcome State Fault Refusal :=
  match s.phase with
  | .idle => .next s
  | .write => seqWrite s
  | .wait => seqWait s
  | .final => .next (seqFinal s)

end Sys2Proof.Machine
end

