-- ==== Sys2Proof/Machine/Step.lean ====
section
/-! DEFINITION. One step of the block: while a send is in flight, one step of its sequencer; else the host's
next command (20_memory.md R47, 41_transmitter.md R118). -/

namespace Sys2Proof.Machine

/-- Serve one command the host issues: decode it, and run it (30_encoding.md R71). -/
def serve (c : Command) (s : State) : Host.Outcome State Fault Refusal :=
  match decode c with
  | .instr i => exec i s
  | .reservedOp _ => execReserved s
  | .malformedOperands _ => .refused .malformedOperands

/-- One step. PHASE = IDLE: the host's next command is taken from the inbox and served; with none issued the
block stays idle, waiting (70_reset_and_hazards.md R160, log 7). Else: the sequencer's step. -/
def step (s : State) : Host.Outcome State Fault Refusal :=
  match s.phase with
  | .idle =>
    match s.inbox with
    | [] => .next s
    | c :: rest => serve c { s with inbox := rest }
  | _ => seqStep s

/-- `s` with an opcode-table word as the command the host issues next. PHASE is IDLE, as the block takes a
command only then (log 17). -/
def State.withFetchWord (s : State) (nbits w : Nat) : State :=
  { s with phase := .idle, inbox := commandOfTableWord nbits w :: s.inbox }

end Sys2Proof.Machine
end

