-- ==== Sys2Proof/Machine/Assembler.lean ====
section
/-! DEFINITION. The textual syntax of 30_encoding.md R72: an assembler from command lines to commands, and a
disassembler. Lines are lists of characters. Notation only (92_eei_decisions.md D20): no step uses it. -/

namespace Sys2Proof.Machine

/-- A space or a tab. -/
def isBlank (c : Char) : Bool := c == ' ' || c == '\t'

/-- The text without blanks at either end. -/
def trim (l : List Char) : List Char := ((l.dropWhile isBlank).reverse.dropWhile isBlank).reverse

/-- The fields between occurrences of a separator. -/
def splitAtChar (sep : Char) : List Char → List (List Char)
  | [] => [[]]
  | c :: cs =>
    if c = sep then [] :: splitAtChar sep cs
    else
      match splitAtChar sep cs with
      | [] => [[c]]
      | f :: fs => (c :: f) :: fs

/-- The value of a decimal digit. -/
def decDigit (c : Char) : Option Nat :=
  if 48 ≤ c.toNat ∧ c.toNat ≤ 57 then some (c.toNat - 48) else none

/-- The value of a hexadecimal digit. -/
def hexDigit (c : Char) : Option Nat :=
  if 48 ≤ c.toNat ∧ c.toNat ≤ 57 then some (c.toNat - 48)
  else if 65 ≤ c.toNat ∧ c.toNat ≤ 70 then some (c.toNat - 55)
  else if 97 ≤ c.toNat ∧ c.toNat ≤ 102 then some (c.toNat - 87)
  else none

/-- The number that digits spell in a base, continuing from `acc`. -/
def digitsValue (base : Nat) (digit : Char → Option Nat) (acc : Nat) : List Char → Option Nat
  | [] => some acc
  | c :: cs =>
    match digit c with
    | some d => digitsValue base digit (acc * base + d) cs
    | none => none

/-- A number: decimal, or hexadecimal with a `0x` prefix (30_encoding.md R72). -/
def parseNat (l : List Char) : Option Nat :=
  match l with
  | [] => none
  | '0' :: 'x' :: c :: cs => digitsValue 16 hexDigit 0 (c :: cs)
  | c :: cs => digitsValue 10 decDigit 0 (c :: cs)

/-- A 32-bit word. -/
def parseWord (l : List Char) : Option Word32 :=
  match parseNat l with
  | some n => if n < 2 ^ 32 then some (BitVec.ofNat 32 n) else none
  | none => none

/-- A pin: `p` and a decimal number (92_eei_decisions.md D20). -/
def parsePin (l : List Char) : Option PinId :=
  match l with
  | 'p' :: c :: cs => (digitsValue 10 decDigit 0 (c :: cs)).map PinId.mk
  | _ => none

/-- A trit's letter (30_encoding.md R72). -/
def tritOfLetter (c : Char) : Option Trit :=
  if c = 'L' then some .low else if c = 'H' then some .high else if c = 'F' then some .float else none

/-- The letters of a trit list up to its closing bracket, which must end the text. -/
def parseTritLetters : List Char → Option (List Trit)
  | [] => none
  | [']'] => some []
  | c :: cs =>
    match tritOfLetter c, parseTritLetters cs with
    | some t, some ts => some (t :: ts)
    | _, _ => none

/-- A trit list in brackets, trit 0 first (30_encoding.md R72). -/
def parseTrits (l : List Char) : Option (List Trit) :=
  match l with
  | '[' :: cs => parseTritLetters cs
  | _ => none

/-- The kinds of operand of 30_encoding.md R70. -/
inductive OperandKind where
  | trits
  | nat
  | word
  | pin
deriving DecidableEq, Repr

/-- One operand's text. -/
def parseOperand (k : OperandKind) (l : List Char) : Option Operand :=
  match k with
  | .trits => (parseTrits l).map .trits
  | .nat => (parseNat l).map .nat
  | .word => (parseWord l).map .word
  | .pin => (parsePin l).map .pin

/-- The operands' texts, as many as the format has kinds. -/
def parseOperands : List OperandKind → List (List Char) → Option (List Operand)
  | [], [] => some []
  | k :: ks, l :: ls =>
    match parseOperand k l, parseOperands ks ls with
    | some o, some os => some (o :: os)
    | _, _ => none
  | _, _ => none

/-- The selector and operand kinds of a mnemonic (30_encoding.md R68, R70). -/
def mnemonicFormat (m : List Char) : Option (Selector × List OperandKind) :=
  if m = ['P', 'A', 'C', 'K'] then some (0b000#3, [.trits, .nat, .nat])
  else if m = ['U', 'N', 'P', 'A', 'C', 'K'] then some (0b001#3, [.word])
  else if m = ['S', 'A', 'M', 'E', '_', 'C', 'O', 'D', 'E'] then some (0b010#3, [.word, .word])
  else if m = ['S', 'E', 'N', 'D', '_', 'P', 'A', 'C', 'K', 'E', 'D'] then some (0b011#3, [.word, .pin])
  else if m = ['S', 'E', 'N', 'D', '_', 'T', 'R', 'I', 'T', 'S'] then some (0b100#3, [.trits, .nat, .nat, .pin])
  else if m = ['S', 'E', 'N', 'D', '_', 'P', 'A', 'I', 'R'] then some (0b101#3, [.nat, .nat, .nat, .nat, .pin])
  else none

/-- One command line without its comment (30_encoding.md R72): a mnemonic, and operands between commas. -/
def assembleBare (l : List Char) : Option Command :=
  match mnemonicFormat (l.takeWhile fun c => !isBlank c) with
  | some (op, kinds) =>
    (parseOperands kinds ((splitAtChar ',' (l.dropWhile fun c => !isBlank c)).map trim)).map (Command.mk op)
  | none => none

/-- The line up to its comment, without blanks at either end; `;` starts a comment (30_encoding.md R72). -/
def uncomment (line : List Char) : List Char := trim (line.takeWhile fun c => c != ';')

/-- One command line (30_encoding.md R72). A reserved OP has no text. -/
def assemble (line : List Char) : Option Command := assembleBare (uncomment line)

/-- The commands of a list of lines, lines that are blank or hold only a comment apart. -/
def assembleLines : List (List Char) → Option (List Command)
  | [] => some []
  | l :: ls =>
    if uncomment l = [] then assembleLines ls
    else
      match assemble l, assembleLines ls with
      | some c, some cs => some (c :: cs)
      | _, _ => none

/-- A program's text, one command per line (30_encoding.md R72). -/
def assembleProgram (text : List Char) : Option (List Command) := assembleLines (splitAtChar '\n' text)

/-- The decimal digits of a number, before `acc`; `fuel` bounds their count. -/
def natDigits : Nat → Nat → List Char → List Char
  | 0, _, acc => acc
  | fuel + 1, n, acc =>
    if n < 10 then Char.ofNat (48 + n) :: acc
    else natDigits fuel (n / 10) (Char.ofNat (48 + n % 10) :: acc)

/-- A number in decimal. -/
def renderNat (n : Nat) : List Char := natDigits (n + 1) n []

/-- A trit's letter (30_encoding.md R72). -/
def letterOfTrit : Trit → Char
  | .low => 'L'
  | .high => 'H'
  | .float => 'F'

/-- The text of an operand. -/
def renderOperand : Operand → List Char
  | .trits t => '[' :: (t.map letterOfTrit ++ [']'])
  | .nat n => renderNat n
  | .word w => renderNat w.toNat
  | .pin p => 'p' :: renderNat p.index

/-- The texts of operands, a comma and a space between them. -/
def renderOperands : List Operand → List Char
  | [] => []
  | [o] => renderOperand o
  | o :: os => renderOperand o ++ [',', ' '] ++ renderOperands os

/-- The mnemonic of an instruction (30_encoding.md R68). -/
def mnemonic : Instr → List Char
  | .pack _ _ _ => ['P', 'A', 'C', 'K']
  | .unpack _ => ['U', 'N', 'P', 'A', 'C', 'K']
  | .sameCode _ _ => ['S', 'A', 'M', 'E', '_', 'C', 'O', 'D', 'E']
  | .sendPacked _ _ => ['S', 'E', 'N', 'D', '_', 'P', 'A', 'C', 'K', 'E', 'D']
  | .sendTrits _ _ _ _ => ['S', 'E', 'N', 'D', '_', 'T', 'R', 'I', 'T', 'S']
  | .sendPair _ _ _ _ _ => ['S', 'E', 'N', 'D', '_', 'P', 'A', 'I', 'R']

/-- The command line of an instruction (30_encoding.md R72). -/
def disassemble (i : Instr) : List Char := mnemonic i ++ [' '] ++ renderOperands (encode i).operands

end Sys2Proof.Machine
end

