-- ==== Sys2Proof/Machine/Flags.lean ====
section
/-! DEFINITION. The block has no flags, condition codes or predicates (10_state.md R22). What a command
tells about how it ended is its status: the codes of 60_exceptions.md R141. -/

namespace Sys2Proof.Machine

/-- The status code of a rejection (60_exceptions.md R141). -/
def rejectCode : Reject → Nat
  | .opReserved => 1
  | .tritCount => 2
  | .periodRange => 3
  | .repeatRange => 4
  | .payloadRange => 5
  | .reservedCode => 6

/-- The status code a command returns (60_exceptions.md R141): 0 is OK. -/
def statusCode : Response → Nat
  | .ok _ => 0
  | .rejected r => rejectCode r

end Sys2Proof.Machine
end

