-- ==== Sys2Proof/WellFormed.lean ====
section
/-! DEFINITION. The legal operand values of 30_encoding.md R70, read straight from its table and from the
words of 41_transmitter.md R107 on bit pairs. Written apart from the checks the meanings make
(Machine/Operands.lean): that the two agree is a statement. -/

namespace Sys2Proof

/-- No pair of bits 19:0 at an even offset (bits 1:0, 3:2, …, 19:18) holds 0b01 (41_transmitter.md R107). -/
def legalPayload (n : Nat) : Bool := (List.range 10).all fun i => n / 4 ^ i % 4 != 1

/-- The trit list holds exactly 12 trits (30_encoding.md R70). -/
def legalTrits (t : List Trit) : Bool := t.length == 12

/-- The period is in 0..511 (30_encoding.md R70). -/
def legalPeriod (n : Nat) : Bool := n ≤ 511

/-- The repeat_log2 is in 0..7 (30_encoding.md R70). -/
def legalReplog (n : Nat) : Bool := n ≤ 7

/-- A SEND_PAIR payload is in 0..0xFFFFF and holds no 0b01 pair (30_encoding.md R70). -/
def legalPairPayload (n : Nat) : Bool := n ≤ 0xFFFFF && legalPayload n

/-- Every operand has a legal value (30_encoding.md R70): the command is not to be rejected. -/
def Instr.wellFormed : Instr → Bool
  | .pack t p r => legalTrits t && legalPeriod p && legalReplog r
  | .unpack _ => true
  | .sameCode _ _ => true
  | .sendPacked w _ => legalPayload (w.toNat % 2 ^ 20)
  | .sendTrits t p r _ => legalTrits t && legalPeriod p && legalReplog r
  | .sendPair pa pb p r _ => legalPeriod p && legalReplog r && legalPairPayload pa && legalPairPayload pb

end Sys2Proof
end

