-- ==== Sys2Proof/Safety.lean ====
section
/-! DEFINITION. Runs, what holds of the block in every state a run reaches, and the rejection tables of
60_exceptions.md R143 and R144: the terms the statements use. -/

namespace Sys2Proof.Machine

/-- `k` steps, stopping at the first fault or refusal. -/
def run : Nat → State → Host.Outcome State Fault Refusal
  | 0, s => .next s
  | k + 1, s =>
    match step s with
    | .next t => run k t
    | .fault f => .fault f
    | .refused r => .refused r

/-- The codec commands (40_codec.md). -/
def isCodec : Instr → Bool
  | .pack _ _ _ => true
  | .unpack _ => true
  | .sameCode _ _ => true
  | .sendPacked _ _ => false
  | .sendTrits _ _ _ _ => false
  | .sendPair _ _ _ _ _ => false

/-- The causes a command can be rejected for, its row of 60_exceptions.md R143. -/
def possibleCauses : Instr → List Reject
  | .pack _ _ _ => [.tritCount, .periodRange, .repeatRange]
  | .unpack _ => []
  | .sameCode _ _ => []
  | .sendPacked _ _ => [.reservedCode]
  | .sendTrits _ _ _ _ => [.tritCount, .periodRange, .repeatRange]
  | .sendPair _ _ _ _ _ => [.periodRange, .repeatRange, .payloadRange, .reservedCode]

/-- The causes that apply to a command's operands (60_exceptions.md R141), in the order of R144. -/
def causes : Instr → List Reject
  | .pack t p r =>
    (if legalTrits t then [] else [.tritCount]) ++ (if legalPeriod p then [] else [.periodRange]) ++
      (if legalReplog r then [] else [.repeatRange])
  | .unpack _ => []
  | .sameCode _ _ => []
  | .sendPacked w _ => if legalPayload (w.toNat % 2 ^ 20) then [] else [.reservedCode]
  | .sendTrits t p r _ =>
    (if legalTrits t then [] else [.tritCount]) ++ (if legalPeriod p then [] else [.periodRange]) ++
      (if legalReplog r then [] else [.repeatRange])
  | .sendPair pa pb p r _ =>
    (if legalPeriod p then [] else [.periodRange]) ++ (if legalReplog r then [] else [.repeatRange]) ++
      (if pa ≤ 0xFFFFF ∧ pb ≤ 0xFFFFF then [] else [.payloadRange]) ++
      (if legalPayload pa && legalPayload pb then [] else [.reservedCode])

/-- The bodies of the send whose operands are latched (10_state.md R25): BODY[1] only when NTEL is 2. -/
def latchedBodies (la : Latches) : List Body :=
  match la.ntel with
  | .one => [la.bodyA]
  | .two => [la.bodyA, la.bodyB]

/-- The ranges of 10_state.md R24: ELEM names the sync or a trit, SEG a segment of it, REP a repeat of the
send, TEL a telegram of it. -/
def PositionInRange (s : State) : Prop :=
  s.pos.elem.toNat ≤ 12 ∧ s.pos.seg.toNat < (currentSegs s).length ∧
  s.pos.rep.toNat < repeats s.latch.replog ∧ s.pos.tel.toNat < telegramCount s.latch.ntel

/-- FINAL comes after the last segment of the whole send only (41_transmitter.md R112). -/
def PositionAtEnd (s : State) : Prop :=
  s.pos.elem = 12 ∧ s.pos.seg.toNat + 1 = (currentSegs s).length ∧
  s.pos.rep.toNat + 1 = repeats s.latch.replog ∧ s.pos.tel.toNat + 1 = telegramCount s.latch.ntel

/-- A send in flight: its position is in range (10_state.md R24), its call has not returned (R26), and FINAL is
reached only at its last segment (41_transmitter.md R112). -/
def SendInFlight (s : State) : Prop :=
  PositionInRange s ∧ s.response = none ∧ (s.phase = .final → PositionAtEnd s)

/-- The pin is at the level of the segment whose Wait is next (41_transmitter.md R111, R120). -/
def PinAtSegmentLevel (s : State) : Prop :=
  ∃ sg, currentSeg s = some sg ∧ readPin s.pinlvl s.latch.pin = some sg.1

/-- PINLVL is PIN_INIT with the Writes of TRACE applied in order (10_state.md R27). -/
def PinsFollowTrace (s : State) : Prop := s.pinlvl = s.trace.foldl pinAfter s.config.pinInit

/-- The longest Wait (70_reset_and_hazards.md R171): 31 periods of 511 microseconds. -/
def maxWait : Nat := 31 * 511

/-- No Wait of the trace is longer than `maxWait` (00_scope.md R10, 70_reset_and_hazards.md R171). -/
def WaitsBounded (s : State) : Prop := ∀ e ∈ s.trace, waitOf e ≤ maxWait

/-- The machine's invariant: a configuration an instance may have (00_scope.md R6), the sequencer in range
while a send is in flight, PINLVL following TRACE in canonical form, and every Wait in its bound. -/
structure Inv (s : State) : Prop where
  configValid : s.config.Valid
  inFlight : s.phase ≠ .idle → SendInFlight s
  pinAtLevel : s.phase = .wait → PinAtSegmentLevel s
  pinsFollow : PinsFollowTrace s
  pinsCanonical : PinMap.wf s.pinlvl
  waitsBounded : WaitsBounded s

/-- The spec's state that a command's result or trace may depend on in IDLE is the same in both: all but
the position registers and latches, which are unread (10_state.md R24, R25, R33). -/
def SameButUnread (s t : State) : Prop :=
  s.phase = t.phase ∧ s.pinlvl = t.pinlvl ∧ s.trace = t.trace ∧ s.config = t.config ∧
  s.inbox = t.inbox ∧ s.response = t.response

end Sys2Proof.Machine
end

