-- ==== Sys2Proof/Certificates/Slice0/Obligations.lean ====
section
/-! DEFINITION. The statements for the provers. Each docstring names the rule of spec/ it formalises, or says
that it states the model's own choice and names the log entry. -/

open Sys2Proof Sys2Proof.Machine

/-! ### Encodings -/

/-- 30_encoding.md R68: each selector value names its operation, with the operands of its row in order. -/
def Obligations.SelectorNamesItsOperation : Prop :=
  ∀ (t : List Trit) (p r pa pb : Nat) (w a b : Word32) (q : PinId),
    decode ⟨0b000#3, [.trits t, .nat p, .nat r]⟩ = .instr (.pack t p r) ∧
    decode ⟨0b001#3, [.word w]⟩ = .instr (.unpack w) ∧
    decode ⟨0b010#3, [.word a, .word b]⟩ = .instr (.sameCode a b) ∧
    decode ⟨0b011#3, [.word w, .pin q]⟩ = .instr (.sendPacked w q) ∧
    decode ⟨0b100#3, [.trits t, .nat p, .nat r, .pin q]⟩ = .instr (.sendTrits t p r q) ∧
    decode ⟨0b101#3, [.nat pa, .nat pb, .nat p, .nat r, .pin q]⟩ = .instr (.sendPair pa pb p r q)

/-- 30_encoding.md R69: a reserved selector is rejected with E_OP_RESERVED whatever its operands are, even
operands of no format. -/
def Obligations.ReservedSelectorIsRejectedUnread : Prop :=
  ∀ (op : Selector) (operands : List Operand) (s : State), (op = 0b110#3 ∨ op = 0b111#3) → s.phase = .idle →
    serve ⟨op, operands⟩ s = .next { s with response := some (.rejected .opReserved) } ∧
    statusCode (.rejected .opReserved) = 1

/-- 30_encoding.md R71: each of the 8 selector values picks exactly one row or is reserved, and a command is
exactly one selector plus the operands of its format: it decodes to an instruction exactly when it is that
instruction's command, so no operand is dropped or read twice. -/
def Obligations.DecodeExactlyInvertsEncode : Prop :=
  (∀ (c : Command) (i : Instr), decode c = .instr i ↔ c = encode i) ∧
  (∀ c : Command, decode c = .reservedOp c.op ↔ c.op = 0b110#3 ∨ c.op = 0b111#3) ∧
  ∀ op : Selector, (op = 0b110#3 ∨ op = 0b111#3) ∨ ∃ i, (encode i).op = op

/-- The text of every instruction assembles to its command (30_encoding.md R72), which decodes to it. The
disassembler's choices, decimal numbers and one space after a comma, are the model's (log 22). -/
def Obligations.AssemblerReadsBackEveryInstruction : Prop :=
  ∀ i : Instr, assemble (disassemble i) = some (encode i) ∧ decode (encode i) = .instr i

/-- Sample words of the opcode table, and the two selectors it does not hold. The zero operands are the
model's choice (log 17). -/
def Obligations.TableWordsDecodeToTheirRows : Prop :=
  decodeTableWord 8 0b000 = some (.pack (List.replicate 12 .low) 0 0) ∧
  decodeTableWord 8 0b001 = some (.unpack 0) ∧
  decodeTableWord 8 0b010 = some (.sameCode 0 0) ∧
  decodeTableWord 8 0b011 = some (.sendPacked 0 ⟨0⟩) ∧
  decodeTableWord 8 0b100 = some (.sendTrits (List.replicate 12 .low) 0 0 ⟨0⟩) ∧
  decodeTableWord 8 0b101 = some (.sendPair 0 0 0 0 ⟨0⟩) ∧
  decodeTableWord 8 0b110 = none ∧ decodeTableWord 8 0b111 = none

/-- 30_encoding.md R61: the fields of a word, the word of three fields, and that each undoes the other. -/
def Obligations.TelegramWordIsItsThreeFields : Prop :=
  (∀ w : Word32, (periodOf w).toNat = w.toNat / 2 ^ 23 ∧ (replogOf w).toNat = w.toNat / 2 ^ 20 % 2 ^ 3 ∧
    (payloadOf w).toNat = w.toNat % 2 ^ 20 ∧ repeatsOf w = 2 ^ (replogOf w).toNat ∧
    1 ≤ repeatsOf w ∧ repeatsOf w ≤ 128) ∧
  (∀ (p : Period9) (r : Rep3) (pl : Payload20),
    (telegram p r pl).toNat = p.toNat * 2 ^ 23 + r.toNat * 2 ^ 20 + pl.toNat ∧
    periodOf (telegram p r pl) = p ∧ replogOf (telegram p r pl) = r ∧ payloadOf (telegram p r pl) = pl) ∧
  ∀ w : Word32, telegram (periodOf w) (replogOf w) (payloadOf w) = w

/-- 30_encoding.md R62: the code of each trit, and `decode` as its inverse, undefined on 0b01 only (R63). -/
def Obligations.TritCodesInvert : Prop :=
  tritCode .low = 0b00#2 ∧ tritCode .high = 0b11#2 ∧ tritCode .float = 0b10#2 ∧
  (∀ x : Trit, tritOfCode (tritCode x) = some x) ∧ ∀ c : Code2, tritOfCode c = none ↔ c = 0b01#2

/-- 30_encoding.md R64: trit i fills bits 23-2i and 22-2i of the raw region, so trit 0 is highest. -/
def Obligations.RawRegionPlacesEveryTrit : Prop :=
  ∀ (t : Body) (i : Nat) (h : i < 12), (raw24 t).extractLsb' (22 - 2 * i) 2 = tritCode t[i]

/-- 30_encoding.md R65: the payload keeps the codes of trits 2 to 11, and does not determine trits 0 and 1. -/
def Obligations.PayloadKeepsTritsTwoToEleven : Prop :=
  (∀ t : Body, payload20 t = (raw24 t).extractLsb' 0 20) ∧
  (∀ (t : Body) (i : Nat) (h : i < 12), 2 ≤ i → (payload20 t).extractLsb' (22 - 2 * i) 2 = tritCode t[i]) ∧
  ∀ (t : Body) (x y : Trit), payload20 ((t.set 0 x).set 1 y) = payload20 t

/-- 30_encoding.md R66: `replay` is undefined exactly when one of the 12 codes is 0b01; else it has the trit of
each code, trits 0 and 1 LOW. -/
def Obligations.ReplayDecodesTwelveCodes : Prop :=
  ∀ pl : Payload20,
    (∀ i < 12, replayCode pl i = (pl.setWidth 24).extractLsb' (22 - 2 * i) 2) ∧
    (replay pl = none ↔ ∃ i < 12, replayCode pl i = 0b01#2) ∧
    ∀ b : Body, replay pl = some b →
      b[0] = .low ∧ b[1] = .low ∧ ∀ (i : Nat) (h : i < 12), tritOfCode (replayCode pl i) = some b[i]

/-! ### The codec -/

/-- 40_codec.md R80: PACK's word, its three rejections in order, and that nothing but the result changes. -/
def Obligations.PackReturnsTheWordOrItsRejection : Prop :=
  ∀ s : State, s.phase = .idle →
    (∀ (t : Body) (p : Period9) (r : Rep3),
      exec (.pack t.toList p.toNat r.toNat) s =
        .next { s with response := some (.ok (some (.word
          (p.setWidth 32 <<< 23 ||| r.setWidth 32 <<< 20 ||| ((raw24 t).extractLsb' 0 20).setWidth 32)))) }) ∧
    ∀ (trits : List Trit) (period replog : Nat),
      (trits.length ≠ 12 →
        exec (.pack trits period replog) s = .next { s with response := some (.rejected .tritCount) }) ∧
      (trits.length = 12 → 511 < period →
        exec (.pack trits period replog) s = .next { s with response := some (.rejected .periodRange) }) ∧
      (trits.length = 12 → period ≤ 511 → 7 < replog →
        exec (.pack trits period replog) s = .next { s with response := some (.rejected .repeatRange) })

/-- 40_codec.md R81: UNPACK splits every word into its three fields and changes nothing but the result. -/
def Obligations.UnpackReturnsTheFields : Prop :=
  ∀ (w : Word32) (s : State), s.phase = .idle →
    exec (.unpack w) s = .next { s with response := some (.ok (some (.fields
      (w.extractLsb' 23 9) (w.extractLsb' 20 3) (w.extractLsb' 0 20)))) }

/-- 40_codec.md R82: SAME_CODE compares bits 19:0, ignores bits 31:20, and changes nothing but the result. -/
def Obligations.SameCodeComparesPayloads : Prop :=
  ∀ (a b : Word32) (s : State), s.phase = .idle →
    exec (.sameCode a b) s = .next { s with response := some (.ok (some (.truth
      (decide (a.toNat % 2 ^ 20 = b.toNat % 2 ^ 20))))) }

/-- 40_codec.md R83: PACK of legal operands returns a word, UNPACK of it returns the timing and the retained
bits, and PACK of the same operands, now issued after them, returns the word again. -/
def Obligations.PackThenUnpackRoundTrips : Prop :=
  ∀ (t : Body) (p : Period9) (r : Rep3) (s : State), s.phase = .idle →
    ∃ (w : Word32) (s1 s2 s3 : State),
      exec (.pack t.toList p.toNat r.toNat) s = .next s1 ∧ s1.response = some (.ok (some (.word w))) ∧
      exec (.unpack w) s1 = .next s2 ∧
      s2.response = some (.ok (some (.fields p r ((raw24 t).extractLsb' 0 20)))) ∧
      exec (.pack t.toList p.toNat r.toNat) s2 = .next s3 ∧ s3.response = some (.ok (some (.word w)))

/-- 40_codec.md R84: SAME_CODE is reflexive, symmetric and transitive, and true of two packings of one trit
list whatever their timing. -/
def Obligations.SameCodeIsAnEquivalence : Prop :=
  (∀ a : Word32, sameCode a a = true) ∧ (∀ a b : Word32, sameCode a b = sameCode b a) ∧
  (∀ a b c : Word32, sameCode a b = true → sameCode b c = true → sameCode a c = true) ∧
  (∀ (t : Body) (p1 p2 : Period9) (r1 r2 : Rep3), ∃ w1 w2 : Word32,
    pack t.toList p1.toNat r1.toNat = .ok w1 ∧ pack t.toList p2.toNat r2.toNat = .ok w2 ∧
    sameCode w1 w2 = true) ∧
  ∀ (a b : Word32) (s : State), s.phase = .idle →
    exec (.sameCode a b) s = .next { s with response := some (.ok (some (.truth (sameCode a b)))) }

/-- 40_codec.md R85: of valid operands PACK keeps exactly the timing and trits 2 to 11, and SAME_CODE of two
packings is true exactly when those trits agree. -/
def Obligations.PackKeepsExactlyTimingAndTenTrits : Prop :=
  ∀ (t t' : Body) (p p' : Period9) (r r' : Rep3), ∃ w w' : Word32,
    pack t.toList p.toNat r.toNat = .ok w ∧ pack t'.toList p'.toNat r'.toNat = .ok w' ∧
    (w = w' ↔ p = p' ∧ r = r' ∧ ∀ (i : Nat) (h : i < 12), 2 ≤ i → t[i] = t'[i]) ∧
    (sameCode w w' = true ↔ ∀ (i : Nat) (h : i < 12), 2 ≤ i → t[i] = t'[i])

/-- 40_codec.md R86 and 10_state.md R30: a codec command's result does not depend on the state it is issued in,
and it changes nothing but the result. -/
def Obligations.CodecCommandsArePure : Prop :=
  ∀ i : Instr, isCodec i = true →
    ∃ r : Response, ∀ s : State, s.phase = .idle → exec i s = .next { s with response := some r }

/-! ### The waveform as data -/

/-- The default instance meets 00_scope.md R6 and has the values of 41_transmitter.md R101; the source's own
FLOAT, one period HIGH and five LOW in two parts, would break (b) and (c) (90_conflicts.md C2). -/
def Obligations.DefaultInstanceMeetsItsConditions : Prop :=
  Config.default.Valid ∧
  tritSegs TritWave.default .low = [(.high, 1), (.low, 5)] ∧
  tritSegs TritWave.default .high = [(.high, 5), (.low, 1)] ∧
  tritSegs TritWave.default .float = [(.high, 2), (.low, 4)] ∧
  ¬ ({ TritWave.default with float := [(.high, 1), (.low, 1), (.low, 4)] } : TritWave).Valid

/-- 41_transmitter.md R102: a body is the sync and then the 12 waveforms, trit 0 first, and takes 104 periods
under every TRIT_WAVE that meets 00_scope.md R6. -/
def Obligations.BodyTakesOneHundredFourPeriods : Prop :=
  ∀ (w : TritWave) (t : Body),
    bodySegs w t = [(.high, 1), (.low, 31)] ++ ((List.finRange 12).map fun i => tritSegs w t[i]).flatten ∧
    (w.Valid → totalPeriods (bodySegs w t) = 104)

/-- 41_transmitter.md R103: the plan of one telegram, and that of two: all repeats of A, then all of B. -/
def Obligations.PlanRepeatsEachTelegramInTurn : Prop :=
  ∀ (w : TritWave) (a b : Body) (r : Rep3),
    plan w [a] r = (List.replicate (2 ^ r.toNat) (bodySegs w a)).flatten ∧
    plan w [a, b] r = (List.replicate (2 ^ r.toNat) (bodySegs w a)).flatten ++
      (List.replicate (2 ^ r.toNat) (bodySegs w b)).flatten

/-- 41_transmitter.md R104: segment j of a plan gives event 2j, its Write, and event 2j + 1, its Wait, merged
with no other even when the Wait is of 0; the closing Write LOW follows, and nothing else (R105). -/
def Obligations.EventsAreOneWriteAndOneWaitASegment : Prop :=
  ∀ (pin : PinId) (p : Period9) (segs : List Seg),
    (∀ (j : Nat) (sg : Seg), segs[j]? = some sg →
      (events pin p segs)[2 * j]? = some (.write pin sg.1) ∧
      (events pin p segs)[2 * j + 1]? = some (.wait (sg.2 * p.toNat))) ∧
    (events pin p segs)[2 * segs.length]? = some (.write pin .low) ∧
    (events pin p segs).length = 2 * segs.length + 1

/-- 41_transmitter.md R121: segment j is requested at the sum of the durations before it, at its level, for its
k × P microseconds. -/
def Obligations.TimelineStartsAtThePrefixSum : Prop :=
  ∀ (p : Period9) (segs : List Seg) (j : Nat) (sg : Seg), segs[j]? = some sg →
    (timeline p 0 segs)[j]? = some (totalPeriods (segs.take j) * p.toNat, sg.1, sg.2 * p.toNat)

/-- 70_reset_and_hazards.md R171: under every TRIT_WAVE that meets R6 no Wait of a send is longer than 15841
microseconds, and at P = 511 one is. -/
def Obligations.NoWaitIsLongerThanTheSyncAtFullPeriod : Prop :=
  ∀ (w : TritWave) (a : RunArgs), w.Valid →
    (∀ n, Event.wait n ∈ runEvents w a → n ≤ 15841) ∧
    (a.period = 511#9 → Event.wait 15841 ∈ runEvents w a)

/-! ### The sequencer -/

/-- 41_transmitter.md R110, the start of RUN: the operands latched, the position at the first sync segment, and
nothing else of the spec's state changed. -/
def Obligations.RunLatchesTheOperands : Prop :=
  ∀ (a : RunArgs) (s : State), ∃ bodyB : Body, (∀ b, a.bodyB = some b → bodyB = b) ∧
    startRun a s =
      { s with
        phase := .write
        pos := { tel := 0, rep := 0, elem := 0, seg := 0 }
        latch := { pin := a.pin, period := a.period, replog := a.replog
                   ntel := (match a.bodyB with | none => .one | some _ => .two)
                   bodyA := a.bodyA, bodyB := bodyB }
        response := none } ∧
    telegramCount (startRun a s).latch.ntel = (runBodies a).length ∧
    currentSeg (startRun a s) = some (.high, 1)

/-- 41_transmitter.md R111: the WRITE step. -/
def Obligations.WriteStepWritesTheSegmentLevel : Prop :=
  ∀ (s : State) (l : Level) (k : Nat), s.phase = .write → currentSeg s = some (l, k) →
    step s = .next { s with trace := s.trace ++ [.write s.latch.pin l]
                            pinlvl := writePin s.pinlvl s.latch.pin l
                            phase := .wait } ∧
    readPin (writePin s.pinlvl s.latch.pin l) s.latch.pin = some l

/-- 41_transmitter.md R112: the WAIT step, its event, and where it goes: the segment moves first, then the
element, then the repeat, then the telegram, then FINAL, where TEL, REP, ELEM and SEG stay; under the ranges of
10_state.md R24 and a TRIT_WAVE that meets R6 no counter wraps. -/
def Obligations.WaitStepAdvancesInnermostFirst : Prop :=
  ∀ (s : State) (l : Level) (k : Nat), s.phase = .wait → s.config.Valid → PositionInRange s →
    currentSeg s = some (l, k) →
    ∃ t, step s = .next t ∧
      t = { s with trace := s.trace ++ [.wait (k * s.latch.period.toNat)], pos := t.pos, phase := t.phase } ∧
      (s.pos.seg.toNat + 1 < (currentSegs s).length →
        t.phase = .write ∧ t.pos.seg.toNat = s.pos.seg.toNat + 1 ∧ t.pos.elem = s.pos.elem ∧
        t.pos.rep = s.pos.rep ∧ t.pos.tel = s.pos.tel) ∧
      (s.pos.seg.toNat + 1 = (currentSegs s).length →
        (s.pos.elem.toNat < 12 →
          t.phase = .write ∧ t.pos.seg = 0 ∧ t.pos.elem.toNat = s.pos.elem.toNat + 1 ∧
          t.pos.rep = s.pos.rep ∧ t.pos.tel = s.pos.tel) ∧
        (s.pos.elem.toNat = 12 →
          (s.pos.rep.toNat + 1 < 2 ^ s.latch.replog.toNat →
            t.phase = .write ∧ t.pos.seg = 0 ∧ t.pos.elem = 0 ∧ t.pos.rep.toNat = s.pos.rep.toNat + 1 ∧
            t.pos.tel = s.pos.tel) ∧
          (s.pos.rep.toNat + 1 = 2 ^ s.latch.replog.toNat →
            (s.pos.tel.toNat + 1 < telegramCount s.latch.ntel →
              t.phase = .write ∧ t.pos.seg = 0 ∧ t.pos.elem = 0 ∧ t.pos.rep = 0 ∧
              t.pos.tel.toNat = s.pos.tel.toNat + 1) ∧
            (s.pos.tel.toNat + 1 = telegramCount s.latch.ntel → t.phase = .final ∧ t.pos = s.pos))))

/-- 41_transmitter.md R113: the FINAL step emits the closing Write LOW, PHASE is IDLE, and the command returns
(OK, ·). What the position registers and latches hold then is unspecified (10_state.md R24, R25). -/
def Obligations.FinalStepReturnsOkWithThePinLow : Prop :=
  ∀ s : State, s.phase = .final →
    ∃ t, step s = .next t ∧
      t = { s with trace := s.trace ++ [.write s.latch.pin .low]
                   pinlvl := writePin s.pinlvl s.latch.pin .low
                   phase := .idle
                   response := some (.ok none)
                   pos := t.pos
                   latch := t.latch
                   freeCount := t.freeCount } ∧
      readPin t.pinlvl s.latch.pin = some .low

/-- 41_transmitter.md R109: started by RUN and stepped until PHASE = IDLE, the sequencer emits exactly the
events of the big-step form, one a step: after k steps the first k of them, and PHASE is IDLE, the call
returned, after the last and not before. The step count is 2 × NTEL × 2^R × S + 1 where S is the number of
segments of every body of the send. That R109's S means every body alike, and that bodies of different lengths
count each its own segments, is the model's reading (log 24, DEDUCED). -/
def Obligations.SequencerEmitsExactlyThePlannedEvents : Prop :=
  ∀ (a : RunArgs) (s : State), s.phase = .idle → s.config.Valid →
    (∀ k ≤ runSteps s.config.tritWave a, ∃ t, run k (startRun a s) = .next t ∧
      t.trace = s.trace ++ (runEvents s.config.tritWave a).take k ∧
      (t.phase = .idle ↔ k = runSteps s.config.tritWave a) ∧
      t.response = (if k = runSteps s.config.tritWave a then some (.ok none) else none) ∧
      t.config = s.config ∧ t.inbox = s.inbox) ∧
    (runEvents s.config.tritWave a).length = runSteps s.config.tritWave a ∧
    ∀ S : Nat, (∀ t ∈ runBodies a, (bodySegs s.config.tritWave t).length = S) →
      runSteps s.config.tritWave a = 2 * (runBodies a).length * 2 ^ a.replog.toNat * S + 1

/-- 41_transmitter.md R114: a step of a send in flight reads the sequencer's own state and the configuration
only: two states that agree on those emit the same event and move alike, whatever else differs. -/
def Obligations.SequencerReadsOnlyItsOwnState : Prop :=
  ∀ s t s' : State, s.phase ≠ .idle → s.phase = t.phase → s.pos = t.pos → s.latch = t.latch →
    s.config = t.config → step s = .next s' →
    ∃ (t' : State) (e : Event), step t = .next t' ∧ s'.trace = s.trace ++ [e] ∧ t'.trace = t.trace ++ [e] ∧
      s'.phase = t'.phase ∧ (s'.phase ≠ .idle → s'.pos = t'.pos ∧ s'.latch = t'.latch)

/-! ### The send operations -/

/-- 41_transmitter.md R106: SEND_TRITS of legal operands starts RUN, and the call returns (OK, ·) having emitted
the events of its plan, with the pin LOW and every other pin as before; else its first rejection, no event. -/
def Obligations.SendTritsSendsItsTrits : Prop :=
  ∀ s : State, s.phase = .idle → s.config.Valid →
    (∀ (t : Body) (p : Period9) (r : Rep3) (pin : PinId),
      exec (.sendTrits t.toList p.toNat r.toNat pin) s = .next (startRun ⟨pin, p, r, t, none⟩ s) ∧
      ∃ u, run (2 * (plan s.config.tritWave [t] r).length + 1) (startRun ⟨pin, p, r, t, none⟩ s) = .next u ∧
        u.trace = s.trace ++ events pin p (plan s.config.tritWave [t] r) ∧
        u.phase = .idle ∧ u.response = some (.ok none) ∧ u.config = s.config ∧ u.inbox = s.inbox ∧
        readPin u.pinlvl pin = some .low ∧ ∀ q, q ≠ pin → readPin u.pinlvl q = readPin s.pinlvl q) ∧
    ∀ (trits : List Trit) (period replog : Nat) (pin : PinId),
      (trits.length ≠ 12 →
        exec (.sendTrits trits period replog pin) s = .next { s with response := some (.rejected .tritCount) }) ∧
      (trits.length = 12 → 511 < period →
        exec (.sendTrits trits period replog pin) s =
          .next { s with response := some (.rejected .periodRange) }) ∧
      (trits.length = 12 → period ≤ 511 → 7 < replog →
        exec (.sendTrits trits period replog pin) s =
          .next { s with response := some (.rejected .repeatRange) })

/-- 41_transmitter.md R107: SEND_PACKED replays period, repeats and payload of the word; it is rejected with
E_RESERVED_CODE exactly when a pair of bits 19:0 at an even offset holds 0b01. -/
def Obligations.SendPackedReplaysTheWord : Prop :=
  ∀ s : State, s.phase = .idle → s.config.Valid → ∀ (w : Word32) (pin : PinId),
    ((∃ i < 10, w.extractLsb' (2 * i) 2 = 0b01#2) →
      exec (.sendPacked w pin) s = .next { s with response := some (.rejected .reservedCode) }) ∧
    ((¬ ∃ i < 10, w.extractLsb' (2 * i) 2 = 0b01#2) →
      ∃ t, replay (w.extractLsb' 0 20) = some t ∧ t[0] = .low ∧ t[1] = .low ∧
        exec (.sendPacked w pin) s =
          .next (startRun ⟨pin, w.extractLsb' 23 9, w.extractLsb' 20 3, t, none⟩ s) ∧
        ∃ u, run (2 * (plan s.config.tritWave [t] (w.extractLsb' 20 3)).length + 1)
              (startRun ⟨pin, w.extractLsb' 23 9, w.extractLsb' 20 3, t, none⟩ s) = .next u ∧
          u.trace = s.trace ++
            events pin (w.extractLsb' 23 9) (plan s.config.tritWave [t] (w.extractLsb' 20 3)) ∧
          u.phase = .idle ∧ u.response = some (.ok none) ∧ u.config = s.config ∧ u.inbox = s.inbox ∧
          readPin u.pinlvl pin = some .low ∧ ∀ q, q ≠ pin → readPin u.pinlvl q = readPin s.pinlvl q)

/-- 41_transmitter.md R108: SEND_PAIR of legal operands sends all repeats of A, then all of B, then one closing
Write; else its first rejection in the rule's order, before any event of A. -/
def Obligations.SendPairSendsBothPayloads : Prop :=
  ∀ s : State, s.phase = .idle → s.config.Valid →
    (∀ (pa pb : Payload20) (ta tb : Body) (p : Period9) (r : Rep3) (pin : PinId),
      replay pa = some ta → replay pb = some tb →
      exec (.sendPair pa.toNat pb.toNat p.toNat r.toNat pin) s =
        .next (startRun ⟨pin, p, r, ta, some tb⟩ s) ∧
      ∃ u, run (2 * (plan s.config.tritWave [ta, tb] r).length + 1)
            (startRun ⟨pin, p, r, ta, some tb⟩ s) = .next u ∧
        u.trace = s.trace ++ events pin p
          ((List.replicate (2 ^ r.toNat) (bodySegs s.config.tritWave ta)).flatten ++
            (List.replicate (2 ^ r.toNat) (bodySegs s.config.tritWave tb)).flatten) ∧
        u.phase = .idle ∧ u.response = some (.ok none) ∧ u.config = s.config ∧ u.inbox = s.inbox ∧
        readPin u.pinlvl pin = some .low ∧ ∀ q, q ≠ pin → readPin u.pinlvl q = readPin s.pinlvl q) ∧
    ∀ (pa pb period replog : Nat) (pin : PinId),
      (511 < period →
        exec (.sendPair pa pb period replog pin) s = .next { s with response := some (.rejected .periodRange) }) ∧
      (period ≤ 511 → 7 < replog →
        exec (.sendPair pa pb period replog pin) s = .next { s with response := some (.rejected .repeatRange) }) ∧
      (period ≤ 511 → replog ≤ 7 → (0xFFFFF < pa ∨ 0xFFFFF < pb) →
        exec (.sendPair pa pb period replog pin) s =
          .next { s with response := some (.rejected .payloadRange) }) ∧
      (period ≤ 511 → replog ≤ 7 → pa ≤ 0xFFFFF → pb ≤ 0xFFFFF →
        (replay (BitVec.ofNat 20 pa) = none ∨ replay (BitVec.ofNat 20 pb) = none) →
        exec (.sendPair pa pb period replog pin) s =
          .next { s with response := some (.rejected .reservedCode) })

/-- 41_transmitter.md R115: the Waits a send that is not rejected adds to the trace sum to NTEL × 2^R × 104 × P
microseconds, for every trit list and every TRIT_WAVE that meets 00_scope.md R6. -/
def Obligations.SendDurationDoesNotDependOnItsData : Prop :=
  ∀ (i : Instr) (s t : State), s.phase = .idle → s.config.Valid → exec i s = .next t → t.phase = .write →
    ∃ (n : Nat) (u : State) (sent : List Event), run n t = .next u ∧ u.phase = .idle ∧
      u.trace = s.trace ++ sent ∧
      waitSum sent = telegramCount t.latch.ntel * 2 ^ t.latch.replog.toNat * 104 * t.latch.period.toNat

/-- 41_transmitter.md R116: the Writes and Waits a send that is not rejected adds to the trace (of a pair, each
telegram counted with its own body), and under the default TRIT_WAVE their numbers and the level changes of its
pin from LOW. That a pair's telegrams count each its own body is the model's reading of R116 (log 24, DEDUCED). -/
def Obligations.SendEventCounts : Prop :=
  ∀ (i : Instr) (s t : State), s.phase = .idle → s.config.Valid → exec i s = .next t → t.phase = .write →
    ∃ (n : Nat) (u : State) (sent : List Event), run n t = .next u ∧ u.phase = .idle ∧
      u.trace = s.trace ++ sent ∧
      writeCount sent =
        ((latchedBodies t.latch).map fun b =>
          2 ^ t.latch.replog.toNat * (2 + (b.toList.map fun x => (tritSegs s.config.tritWave x).length).sum)).sum + 1 ∧
      waitCount sent = writeCount sent - 1 ∧
      (s.config.tritWave = TritWave.default →
        writeCount sent = 26 * telegramCount t.latch.ntel * 2 ^ t.latch.replog.toNat + 1 ∧
        levelChanges t.latch.pin .low sent = 26 * telegramCount t.latch.ntel * 2 ^ t.latch.replog.toNat)

/-- 41_transmitter.md R119, first sentence: SEND_PACKED of a packed list is SEND_TRITS of that list with trits 0
and 1 LOW, command for command and so event for event. -/
def Obligations.PackedPathSendsTheListWithTwoTritsLow : Prop :=
  ∀ (t : Body) (p : Period9) (r : Rep3) (pin : PinId) (s : State), ∃ w : Word32,
    pack t.toList p.toNat r.toNat = .ok w ∧
    exec (.sendPacked w pin) s = exec (.sendTrits ((t.set 0 .low).set 1 .low).toList p.toNat r.toNat pin) s

/-- 41_transmitter.md R119, second sentence, for a period of at least 1 microsecond: the packed and the direct
path emit the same events exactly when trits 0 and 1 are LOW. With period 0 it fails, see the next statement; to
leave period 0 out is the model's reading (log 24, DEDUCED). -/
def Obligations.PathsAgreeExactlyWhenTwoTritsAreLow : Prop :=
  ∀ (w : TritWave) (t : Body) (p : Period9) (r : Rep3) (pin : PinId), w.Valid → p ≠ 0 →
    (runEvents w ⟨pin, p, r, (t.set 0 .low).set 1 .low, none⟩ = runEvents w ⟨pin, p, r, t, none⟩ ↔
      t[0] = .low ∧ t[1] = .low)

/-- 41_transmitter.md R119 as it stands, for every valid period. It FAILS: with period 0 every Wait is a Wait(0),
and under the default TRIT_WAVE all trits then emit the same events (log 24). -/
def Obligations.PathsAgreeExactlyWhenTwoTritsAreLowAtEveryPeriod : Prop :=
  ∀ (w : TritWave) (t : Body) (p : Period9) (r : Rep3) (pin : PinId), w.Valid →
    (∃ word, pack t.toList p.toNat r.toNat = .ok word ∧
      sendPackedArgs word pin = sendTritsArgs ((t.set 0 .low).set 1 .low).toList p.toNat r.toNat pin) ∧
    (runEvents w ⟨pin, p, r, (t.set 0 .low).set 1 .low, none⟩ = runEvents w ⟨pin, p, r, t, none⟩ ↔
      t[0] = .low ∧ t[1] = .low)

/-! ### Rejections and the host interface -/

/-- 60_exceptions.md R141: the status codes. -/
def Obligations.StatusCodesAreThoseOfTheTable : Prop :=
  (∀ v, statusCode (.ok v) = 0) ∧ statusCode (.rejected .opReserved) = 1 ∧
  statusCode (.rejected .tritCount) = 2 ∧ statusCode (.rejected .periodRange) = 3 ∧
  statusCode (.rejected .repeatRange) = 4 ∧ statusCode (.rejected .payloadRange) = 5 ∧
  statusCode (.rejected .reservedCode) = 6

/-- 60_exceptions.md R144 and 30_encoding.md R70: a command whose operands are all legal is not rejected; else it
reports the first of the causes that apply, E_OP_RESERVED before all others, whatever the operands. -/
def Obligations.FirstCauseIsReported : Prop :=
  ∀ s : State, s.phase = .idle →
    (∀ (op : Selector) (operands : List Operand), (op = 0b110#3 ∨ op = 0b111#3) →
      serve ⟨op, operands⟩ s = .next { s with response := some (.rejected .opReserved) }) ∧
    ∀ i : Instr,
      (i.wellFormed = true ↔ causes i = []) ∧
      (causes i = [] → ∃ t, exec i s = .next t ∧ ∀ c, t.response ≠ some (.rejected c)) ∧
      ∀ c rest, causes i = c :: rest → exec i s = .next { s with response := some (.rejected c) }

/-- 60_exceptions.md R143: a command raises no code but those of its row. -/
def Obligations.OnlyTheRowsOwnCausesAreRaised : Prop :=
  (∀ (i : Instr) (s t : State) (c : Reject), exec i s = .next t → t.response = some (.rejected c) →
    c ∈ possibleCauses i) ∧
  ∀ (op : Selector) (operands : List Operand) (s t : State) (c : Reject), (op = 0b110#3 ∨ op = 0b111#3) →
    serve ⟨op, operands⟩ s = .next t → t.response = some (.rejected c) → c = .opReserved

/-- 60_exceptions.md R142: a rejected command changes nothing but the result, and every next command runs as if
the rejected one had never been issued. -/
def Obligations.RejectionLeavesNoTrace : Prop :=
  ∀ (i : Instr) (s t : State) (c : Reject), exec i s = .next t → t.response = some (.rejected c) →
    t = { s with response := some (.rejected c) } ∧ ∀ j : Instr, exec j t = exec j s

/-- 20_memory.md R46, 10_state.md R30: a command's first step, RUN's start or its return, emits no event, moves no
pin, and leaves configuration and inbox alone; a codec command leaves the sequencer alone too. -/
def Obligations.NoCommandActsBeforeItsFirstEvent : Prop :=
  ∀ (i : Instr) (s t : State), exec i s = .next t →
    t.trace = s.trace ∧ t.pinlvl = s.pinlvl ∧ (∀ q, readPin t.pinlvl q = readPin s.pinlvl q) ∧
    t.config = s.config ∧ t.inbox = s.inbox ∧ t.freeCount = s.freeCount ∧
    (isCodec i = true → t.phase = s.phase ∧ t.pos = s.pos ∧ t.latch = s.latch)

/-- 41_transmitter.md R118, 60_exceptions.md R153: while a send is in flight no command is accepted, and the step
is the sequencer's, with the inbox untouched and exactly one event of that send's pin or clock. -/
def Obligations.SendInFlightAcceptsNoCommand : Prop :=
  ∀ s : State, s.phase ≠ .idle →
    (∀ i : Instr, exec i s = .refused .commandWhileBusy) ∧
    ∀ t, step s = .next t → t.inbox = s.inbox ∧
      ∃ e, t.trace = s.trace ++ [e] ∧ ((∃ l, e = .write s.latch.pin l) ∨ ∃ n, e = .wait n)

/-- In IDLE a step takes the next command of the inbox and runs the instruction it decodes to; operands that are
not those of the selector's format are refused (log 6). The inbox is the model's (log 5). -/
def Obligations.StepRunsTheDecodedCommand : Prop :=
  ∀ (s : State) (c : Command) (rest : List Command), s.phase = .idle → s.inbox = c :: rest →
    (∀ i, decode c = .instr i → step s = exec i { s with inbox := rest }) ∧
    (∀ op, decode c = .reservedOp op →
      step s = .next { s with inbox := rest, response := some (.rejected .opReserved) }) ∧
    ∀ op, decode c = .malformedOperands op → step s = .refused .malformedOperands

/-- An opcode-table word that decodes is the very next instruction run. The zero operands and the setting of
PHASE are the model's (log 17). -/
def Obligations.FetchedTableWordRunsNext : Prop :=
  ∀ (s : State) (nbits w : Nat) (i : Instr), decodeTableWord nbits w = some i →
    step (s.withFetchWord nbits w) = exec i { s with phase := .idle }

/-- 20_memory.md R47: commands are taken one at a time, in the order issued, each only when the one before has
returned; with none issued the idle block waits unchanged (the model's way to say so, log 7). -/
def Obligations.CommandsAreServedOneAtATime : Prop :=
  ∀ s t : State, step s = .next t →
    (s.phase ≠ .idle → t.inbox = s.inbox) ∧
    (s.phase = .idle → s.inbox = [] → t = s) ∧
    (s.phase = .idle → ∀ c rest, s.inbox = c :: rest →
      t.inbox = rest ∧ t.trace = s.trace ∧ (t.phase = .idle ∧ t.response ≠ none ∨ t.phase = .write ∧ t.response = none))

/-! ### Whole-machine rules -/

/-- 10_state.md R28: a step appends at most one event, one exactly when a send is in flight; none is ever removed
or reordered. -/
def Obligations.TraceIsAppendOnly : Prop :=
  ∀ s t : State, step s = .next t →
    (s.phase = .idle → t.trace = s.trace) ∧ (s.phase ≠ .idle → ∃ e, t.trace = s.trace ++ [e])

/-- 10_state.md R27: only a Write changes PINLVL, and only at its own pin, to its level; before the first Write a
pin reads PIN_INIT, by default none. -/
def Obligations.OnlyAWriteMovesItsPin : Prop :=
  (∀ s t : State, step s = .next t →
    (t.pinlvl = s.pinlvl ∧ ∀ p l, t.trace ≠ s.trace ++ [.write p l]) ∨
    ∃ p l, t.trace = s.trace ++ [.write p l] ∧ readPin t.pinlvl p = some l ∧
      ∀ q, q ≠ p → readPin t.pinlvl q = readPin s.pinlvl q) ∧
  (∀ c p, readPin (State.resetOf c).pinlvl p = readPin c.pinInit p) ∧
  ∀ p, readPin State.reset.pinlvl p = none

/-- 10_state.md R23, 20_memory.md R51: no step, so no command, changes the instance's configuration. -/
def Obligations.ConfigurationNeverChanges : Prop :=
  ∀ (k : Nat) (s t : State), run k s = .next t → t.config = s.config

/-- 10_state.md R33, 70_reset_and_hazards.md R160: what the spec gives the reset state, of any instance and of the
default one: idle, waiting for its first command, whichever that is. -/
def Obligations.ResetStateIsIdleWithAnEmptyTrace : Prop :=
  (∀ c : Config, (State.resetOf c).phase = .idle ∧ (State.resetOf c).trace = [] ∧
    (∀ p, readPin (State.resetOf c).pinlvl p = readPin c.pinInit p) ∧
    ∀ i, ∃ t, exec i (State.resetOf c) = .next t) ∧
  State.reset.phase = .idle ∧ State.reset.trace = [] ∧ ∀ p, readPin State.reset.pinlvl p = none

/-- 70_reset_and_hazards.md R160, R161: a reset by the host in IDLE gives the instance's reset state, the host's
own inbox and the model's counter kept (log 14); a reset during a send is refused. -/
def Obligations.HostResetOnlyWhenIdle : Prop :=
  ∀ s : State,
    (s.phase = .idle →
      hostReset s = .next { State.resetOf s.config with inbox := s.inbox, freeCount := s.freeCount }) ∧
    (s.phase ≠ .idle → hostReset s = .refused .resetDuringSend)

/-- The invariant (Safety.lean) holds right after reset, of every instance that meets 00_scope.md R6. -/
def Obligations.InvariantHoldsAtReset : Prop :=
  (∀ c : Config, c.Valid → Inv (State.resetOf c)) ∧ Inv State.reset

/-- Every step keeps the invariant: the sequencer's ranges (10_state.md R24), the call not returned while a send
is in flight (R26), the pin at its segment's level (41_transmitter.md R120), PINLVL equal to PIN_INIT with the
Writes of TRACE applied (R27) and in canonical form, no Wait over 15841 microseconds (00_scope.md R10), and a
configuration that meets 00_scope.md R6. -/
def Obligations.EveryStepKeepsTheInvariant : Prop :=
  ∀ s t : State, Inv s → step s = .next t → Inv t

/-- 41_transmitter.md R114: from a state that meets the invariant a send in flight always has a next step, and the
machine never faults; it stops only at operands that are no command (log 6). -/
def Obligations.NoRunFaultsOrHangs : Prop :=
  ∀ s : State, Inv s →
    (s.phase ≠ .idle → ∃ t, step s = .next t) ∧
    (∀ f, step s ≠ .fault f) ∧
    ∀ r, step s = .refused r → r = .malformedOperands ∧ s.phase = .idle ∧
      ∃ c rest op, s.inbox = c :: rest ∧ decode c = .malformedOperands op

/-- 10_state.md R24, R25, R33: what the position registers and latches hold in IDLE is never read: two idle states
that differ in nothing else run alike for ever, free values and all. -/
def Obligations.IdleRegistersAreNeverRead : Prop :=
  ∀ (k : Nat) (s t s' : State), s.phase = .idle → SameButUnread s t → run k s = .next s' →
    ∃ t', run k t = .next t' ∧ SameButUnread s' t'

/-- 41_transmitter.md R120: while a send runs its pin has the level of the last Write emitted and no other pin is
written; when its command returns the pin is LOW. -/
def Obligations.OnlyTheSendsPinIsDriven : Prop :=
  ∀ s t : State, step s = .next t → s.phase ≠ .idle →
    ((∃ l, t.trace = s.trace ++ [.write s.latch.pin l] ∧ readPin t.pinlvl s.latch.pin = some l) ∨
      ∃ n, t.trace = s.trace ++ [.wait n] ∧ t.pinlvl = s.pinlvl) ∧
    (∀ q, q ≠ s.latch.pin → readPin t.pinlvl q = readPin s.pinlvl q) ∧
    (t.phase ≠ .idle → t.latch = s.latch) ∧
    (t.phase = .idle → t.response = some (.ok none) ∧ readPin t.pinlvl s.latch.pin = some .low)
end

