-- ==== Sys2Proof/Laws/Operands.lean ====
section
/-! SUPPORT. What each operand check answers, said once. -/

namespace Sys2Proof.Machine

/-! How checks that are chained answer: a passed check hands its value on, a failed one is the answer. -/

@[simp] theorem check_passed {α β : Type} (x : α) (f : α → Except Reject β) : (Except.ok x >>= f) = f x := rfl

@[simp] theorem check_failed {α β : Type} (c : Reject) (f : α → Except Reject β) :
    ((Except.error c : Except Reject α) >>= f) = .error c := rfl

@[simp] theorem check_done {α : Type} (x : α) : (pure x : Except Reject α) = .ok x := rfl

theorem bodyOfList_toList (t : Body) : bodyOfList t.toList = some t := by
  rcases t with ⟨⟨l⟩, h⟩
  have h' : l.length = 12 := h
  simp [bodyOfList, Vector.toList, h']

theorem bodyOfList_eq_none {l : List Trit} (h : l.length ≠ 12) : bodyOfList l = none := by
  simp [bodyOfList, h]

theorem bodyOfList_some {l : List Trit} {b : Body} (h : bodyOfList l = some b) : b.toList = l := by
  unfold bodyOfList at h
  split at h
  · obtain rfl := Option.some.inj h
    rfl
  · cases h

theorem body_length (t : Body) : t.toList.length = 12 := by simp

@[simp] theorem tritsOperand_toList (t : Body) : tritsOperand t.toList = .ok t := by
  simp [tritsOperand, bodyOfList_toList]

theorem tritsOperand_error {l : List Trit} (h : l.length ≠ 12) : tritsOperand l = .error .tritCount := by
  simp [tritsOperand, bodyOfList_eq_none h]

@[simp] theorem periodOperand_toNat (p : Period9) : periodOperand p.toNat = .ok p := by
  have := p.isLt
  simp [periodOperand, show ¬ 511 < p.toNat by omega]

theorem periodOperand_error {n : Nat} (h : 511 < n) : periodOperand n = .error .periodRange := by
  simp [periodOperand, h]

@[simp] theorem replogOperand_toNat (r : Rep3) : replogOperand r.toNat = .ok r := by
  have := r.isLt
  simp [replogOperand, show ¬ 7 < r.toNat by omega]

theorem replogOperand_error {n : Nat} (h : 7 < n) : replogOperand n = .error .repeatRange := by
  simp [replogOperand, h]

@[simp] theorem payloadOperand_toNat (p : Payload20) : payloadOperand p.toNat = .ok p := by
  have := p.isLt
  simp [payloadOperand, show ¬ 0xFFFFF < p.toNat by omega]

theorem payloadOperand_error {n : Nat} (h : 0xFFFFF < n) : payloadOperand n = .error .payloadRange := by
  simp [payloadOperand, h]

theorem replayOperand_ok {pl : Payload20} {b : Body} (h : replay pl = some b) :
    replayOperand pl = .ok b := by
  simp [replayOperand, h]

theorem replayOperand_error {pl : Payload20} (h : replay pl = none) :
    replayOperand pl = .error .reservedCode := by
  simp [replayOperand, h]

end Sys2Proof.Machine
end

