-- ==== Sys2Proof/Laws/State.lean ====
section
/-! SUPPORT. What each update of State does to each field: one lemma per field per update, true by rfl. -/

namespace Sys2Proof.Machine

variable (e : Event) (r : Response) (c : Reject) (a : RunArgs) (s : State) (g : Config) (n w : Nat)

@[simp] theorem emit_phase : (emit e s).phase = s.phase := rfl
@[simp] theorem emit_pos : (emit e s).pos = s.pos := rfl
@[simp] theorem emit_latch : (emit e s).latch = s.latch := rfl
@[simp] theorem emit_pinlvl : (emit e s).pinlvl = pinAfter s.pinlvl e := rfl
@[simp] theorem emit_trace : (emit e s).trace = s.trace ++ [e] := rfl
@[simp] theorem emit_config : (emit e s).config = s.config := rfl
@[simp] theorem emit_inbox : (emit e s).inbox = s.inbox := rfl
@[simp] theorem emit_response : (emit e s).response = s.response := rfl
@[simp] theorem emit_freeCount : (emit e s).freeCount = s.freeCount := rfl

@[simp] theorem respond_phase : (respond r s).phase = s.phase := rfl
@[simp] theorem respond_pos : (respond r s).pos = s.pos := rfl
@[simp] theorem respond_latch : (respond r s).latch = s.latch := rfl
@[simp] theorem respond_pinlvl : (respond r s).pinlvl = s.pinlvl := rfl
@[simp] theorem respond_trace : (respond r s).trace = s.trace := rfl
@[simp] theorem respond_config : (respond r s).config = s.config := rfl
@[simp] theorem respond_inbox : (respond r s).inbox = s.inbox := rfl
@[simp] theorem respond_response : (respond r s).response = some r := rfl
@[simp] theorem respond_freeCount : (respond r s).freeCount = s.freeCount := rfl

@[simp] theorem reject_eq_respond : reject c s = respond (.rejected c) s := rfl

@[simp] theorem startRun_phase : (startRun a s).phase = .write := rfl
@[simp] theorem startRun_pos : (startRun a s).pos = { tel := 0, rep := 0, elem := 0, seg := 0 } := rfl
@[simp] theorem startRun_pin : (startRun a s).latch.pin = a.pin := rfl
@[simp] theorem startRun_period : (startRun a s).latch.period = a.period := rfl
@[simp] theorem startRun_replog : (startRun a s).latch.replog = a.replog := rfl
@[simp] theorem startRun_ntel :
    (startRun a s).latch.ntel = if a.bodyB.isSome then .two else .one := rfl
@[simp] theorem startRun_bodyA : (startRun a s).latch.bodyA = a.bodyA := rfl
@[simp] theorem startRun_bodyB : (startRun a s).latch.bodyB = a.bodyB.getD s.latch.bodyB := rfl
@[simp] theorem startRun_pinlvl : (startRun a s).pinlvl = s.pinlvl := rfl
@[simp] theorem startRun_trace : (startRun a s).trace = s.trace := rfl
@[simp] theorem startRun_config : (startRun a s).config = s.config := rfl
@[simp] theorem startRun_inbox : (startRun a s).inbox = s.inbox := rfl
@[simp] theorem startRun_response : (startRun a s).response = none := rfl
@[simp] theorem startRun_freeCount : (startRun a s).freeCount = s.freeCount := rfl

@[simp] theorem goIdle_phase : (goIdle s).phase = .idle := rfl
@[simp] theorem goIdle_pos : (goIdle s).pos = freePosition s.freeCount := rfl
@[simp] theorem goIdle_latch : (goIdle s).latch = freeLatches s.freeCount := rfl
@[simp] theorem goIdle_pinlvl : (goIdle s).pinlvl = s.pinlvl := rfl
@[simp] theorem goIdle_trace : (goIdle s).trace = s.trace := rfl
@[simp] theorem goIdle_config : (goIdle s).config = s.config := rfl
@[simp] theorem goIdle_inbox : (goIdle s).inbox = s.inbox := rfl
@[simp] theorem goIdle_response : (goIdle s).response = s.response := rfl
@[simp] theorem goIdle_freeCount : (goIdle s).freeCount = s.freeCount + 1 := rfl

@[simp] theorem resetOf_phase : (State.resetOf g).phase = .idle := rfl
@[simp] theorem resetOf_pinlvl : (State.resetOf g).pinlvl = g.pinInit := rfl
@[simp] theorem resetOf_trace : (State.resetOf g).trace = [] := rfl
@[simp] theorem resetOf_config : (State.resetOf g).config = g := rfl
@[simp] theorem resetOf_inbox : (State.resetOf g).inbox = [] := rfl
@[simp] theorem resetOf_response : (State.resetOf g).response = none := rfl

@[simp] theorem withFetchWord_phase : (s.withFetchWord n w).phase = .idle := rfl
@[simp] theorem withFetchWord_inbox :
    (s.withFetchWord n w).inbox = commandOfTableWord n w :: s.inbox := rfl
@[simp] theorem withFetchWord_pinlvl : (s.withFetchWord n w).pinlvl = s.pinlvl := rfl
@[simp] theorem withFetchWord_trace : (s.withFetchWord n w).trace = s.trace := rfl
@[simp] theorem withFetchWord_config : (s.withFetchWord n w).config = s.config := rfl

end Sys2Proof.Machine
end

