-- ==== Sys2Proof/Laws/Ops.lean ====
section
/-! SUPPORT. What each shared operation can do, said once: pin levels, accepting, finishing, launching. -/

namespace Sys2Proof.Machine

theorem pinId_eq_of_index {p q : PinId} (h : p.index = q.index) : p = q := by
  cases p; cases q; simpa using h

/-- A pin reads the level last written to it (10_state.md R27). -/
@[simp] theorem readPin_writePin_same (m : PinMap) (p : PinId) (l : Level) :
    readPin (writePin m p l) p = some l := by
  induction m with
  | nil => simp [writePin, readPin]
  | cons e rest ih =>
    obtain ⟨q, k⟩ := e
    by_cases h1 : p.index < q.index
    · simp [writePin, readPin, h1]
    · by_cases h2 : q.index < p.index
      · have : q ≠ p := fun h => by simp [h] at h2
        simp [writePin, readPin, h1, h2, this, ih]
      · simp [writePin, readPin, h1, h2]

/-- A write leaves every other pin's level alone (41_transmitter.md R120). -/
theorem readPin_writePin_other (m : PinMap) {p q : PinId} (l : Level) (h : q ≠ p) :
    readPin (writePin m p l) q = readPin m q := by
  induction m with
  | nil => simp [writePin, readPin, Ne.symm h]
  | cons e rest ih =>
    obtain ⟨k, v⟩ := e
    by_cases h1 : p.index < k.index
    · simp [writePin, readPin, h1, Ne.symm h]
    · by_cases h2 : k.index < p.index
      · simp [writePin, readPin, h1, h2, ih]
      · have hk : k = p := pinId_eq_of_index (by omega)
        subst hk
        simp [writePin, readPin, Ne.symm h]

theorem mem_writePin_index {m : PinMap} {p : PinId} {l : Level} {x : Nat}
    (h : x ∈ (writePin m p l).map fun e => e.1.index) :
    x = p.index ∨ x ∈ m.map fun e => e.1.index := by
  induction m with
  | nil => simp [writePin] at h; exact .inl h
  | cons e rest ih =>
    obtain ⟨q, k⟩ := e
    by_cases h1 : p.index < q.index
    · simpa [writePin, h1] using h
    · by_cases h2 : q.index < p.index
      · simp only [writePin, h1, h2, if_false, if_true, List.map_cons, List.mem_cons] at h
        rcases h with h | h
        · exact .inr (by simp [h])
        · rcases ih h with h | h
          · exact .inl h
          · exact .inr (List.mem_cons_of_mem _ h)
      · simp only [writePin, h1, h2, if_false, List.map_cons, List.mem_cons] at h
        rcases h with h | h
        · exact .inl h
        · exact .inr (List.mem_cons_of_mem _ h)

/-- Writing a pin keeps the canonical form. -/
theorem writePin_wf {m : PinMap} (p : PinId) (l : Level) (h : PinMap.wf m) :
    PinMap.wf (writePin m p l) := by
  induction m with
  | nil => simp [writePin, PinMap.wf]
  | cons e rest ih =>
    obtain ⟨q, k⟩ := e
    obtain ⟨hq, hrest⟩ := List.pairwise_cons.1 h
    by_cases h1 : p.index < q.index
    · simp only [writePin, h1, if_true]
      refine List.pairwise_cons.2 ⟨fun x hx => ?_, h⟩
      rcases List.mem_cons.1 hx with rfl | hx
      · exact h1
      · exact Nat.lt_trans h1 (hq x hx)
    · by_cases h2 : q.index < p.index
      · simp only [writePin, h1, h2, if_true, if_false]
        refine List.pairwise_cons.2 ⟨fun x hx => ?_, ih hrest⟩
        rcases mem_writePin_index hx with rfl | hx
        · exact h2
        · exact hq x hx
      · simp only [writePin, h1, h2, if_false]
        have hk : q.index = p.index := by omega
        exact List.pairwise_cons.2 ⟨fun x hx => lt_of_eq_of_lt hk.symm (hq x hx), hrest⟩

/-- Every event keeps the canonical form of the pin levels. -/
theorem pinAfter_wf {m : PinMap} (e : Event) (h : PinMap.wf m) : PinMap.wf (pinAfter m e) := by
  cases e with
  | write p l => exact writePin_wf p l h
  | wait n => exact h

/-- The reset state's pin levels are in canonical form when PIN_INIT is. -/
theorem resetOf_wf {c : Config} (h : c.Valid) : PinMap.wf (State.resetOf c).pinlvl := h.2

@[simp] theorem pinAfter_write (m : PinMap) (p : PinId) (l : Level) :
    pinAfter m (.write p l) = writePin m p l := rfl

@[simp] theorem pinAfter_wait (m : PinMap) (n : Nat) : pinAfter m (.wait n) = m := rfl

/-- Accepting a command: only in IDLE (60_exceptions.md R153). -/
theorem accept_idle {s : State} (t : State) (h : s.phase = .idle) : accept s t = .next t := by
  simp [accept, h]

theorem accept_busy {s : State} (t : State) (h : s.phase ≠ .idle) :
    accept s t = .refused .commandWhileBusy := by
  simp [accept, h]

/-- All that accepting can do. -/
theorem accept_cases {s t u : State} (h : accept s t = .next u) : s.phase = .idle ∧ u = t := by
  by_cases hp : s.phase = .idle
  · rw [accept_idle t hp] at h
    exact ⟨hp, by simpa using h.symm⟩
  · rw [accept_busy t hp] at h
    cases h

@[simp] theorem finish_ok (v : Value) (s : State) : finish (.ok v) s = respond (.ok (some v)) s := rfl
@[simp] theorem finish_error (c : Reject) (s : State) : finish (.error c) s = respond (.rejected c) s := rfl

/-- A codec command changes the response and nothing else (10_state.md R30). -/
theorem finish_frame (r : Except Reject Value) (s : State) :
    finish r s = { s with response := (finish r s).response } := by
  cases r <;> rfl

@[simp] theorem launch_ok (a : RunArgs) (s : State) : launch (.ok a) s = startRun a s := rfl
@[simp] theorem launch_error (c : Reject) (s : State) : launch (.error c) s = respond (.rejected c) s := rfl

/-- All that a send command's first step can do: RUN's start, or a rejection. -/
theorem launch_cases (r : Except Reject RunArgs) (s : State) :
    (∃ a, r = .ok a ∧ launch r s = startRun a s) ∨
    (∃ c, r = .error c ∧ launch r s = respond (.rejected c) s) := by
  cases r with
  | ok a => exact .inl ⟨a, rfl, rfl⟩
  | error c => exact .inr ⟨c, rfl, rfl⟩

/-- No command's first step emits an event, moves a pin, or touches configuration or inbox. -/
theorem launch_frame (r : Except Reject RunArgs) (s : State) :
    (launch r s).trace = s.trace ∧ (launch r s).pinlvl = s.pinlvl ∧ (launch r s).config = s.config ∧
    (launch r s).inbox = s.inbox ∧ (launch r s).freeCount = s.freeCount := by
  cases r <;> exact ⟨rfl, rfl, rfl, rfl, rfl⟩

/-- All that a reset by the host can do. -/
theorem hostReset_cases {s t : State} (h : hostReset s = .next t) :
    s.phase = .idle ∧ t = { State.resetOf s.config with inbox := s.inbox, freeCount := s.freeCount } := by
  unfold hostReset at h
  split at h
  · exact ⟨‹_›, by simpa using h.symm⟩
  · cases h

end Sys2Proof.Machine
end

