-- ==== Sys2Proof/Laws/PerInstr.lean ====
section
/-! SUPPORT. Statements made per instruction: about its encoding and its syntax. -/

namespace Sys2Proof.Laws.SelectorOfRow

/-- The instruction's command carries the selector of its row (30_encoding.md R68). -/
def Statement (i : Instr) : Prop :=
  (encode i).op =
    match i with
    | .pack _ _ _ => 0#3
    | .unpack _ => 1#3
    | .sameCode _ _ => 2#3
    | .sendPacked _ _ => 3#3
    | .sendTrits _ _ _ _ => 4#3
    | .sendPair _ _ _ _ _ => 5#3

theorem pack (t : List Trit) (p r : Nat) : Statement (.pack t p r) := rfl
theorem unpack (w : Word32) : Statement (.unpack w) := rfl
theorem sameCode (a b : Word32) : Statement (.sameCode a b) := rfl
theorem sendPacked (w : Word32) (q : PinId) : Statement (.sendPacked w q) := rfl
theorem sendTrits (t : List Trit) (p r : Nat) (q : PinId) : Statement (.sendTrits t p r q) := rfl
theorem sendPair (pa pb p r : Nat) (q : PinId) : Statement (.sendPair pa pb p r q) := rfl

end Sys2Proof.Laws.SelectorOfRow
end

