-- ==== Sys2Proof/Laws/Sequencer.lean ====
section
/-! SUPPORT. What the decoder, a step, and a step of the sequencer can do, said once. -/

namespace Sys2Proof.Machine

/-- A WRITE step that goes on emits the Write of the current segment (41_transmitter.md R111). -/
theorem seqWrite_cases {s t : State} (h : seqWrite s = .next t) :
    ∃ sg, currentSeg s = some sg ∧ t = { emit (.write s.latch.pin sg.1) s with phase := .wait } := by
  unfold seqWrite at h
  split at h
  · exact ⟨_, ‹_›, by simpa using h.symm⟩
  · cases h

/-- A WAIT step that goes on emits the Wait of the current segment and advances (41_transmitter.md R112). -/
theorem seqWait_cases {s t : State} (h : seqWait s = .next t) :
    ∃ sg, currentSeg s = some sg ∧
      t = { emit (.wait (sg.2 * s.latch.period.toNat)) s with
            pos := (advance s).1, phase := (advance s).2 } := by
  unfold seqWait at h
  split at h
  · exact ⟨_, ‹_›, by simpa using h.symm⟩
  · cases h

/-- All that a step of a send in flight can do. -/
theorem seqStep_cases {s t : State} (h : seqStep s = .next t) :
    (s.phase = .idle ∧ t = s) ∨ (s.phase = .write ∧ seqWrite s = .next t) ∨
    (s.phase = .wait ∧ seqWait s = .next t) ∨ (s.phase = .final ∧ t = seqFinal s) := by
  unfold seqStep at h
  cases hp : s.phase <;> simp only [hp] at h
  · exact .inl ⟨rfl, by simpa using h.symm⟩
  · exact .inr (.inl ⟨rfl, h⟩)
  · exact .inr (.inr (.inl ⟨rfl, h⟩))
  · exact .inr (.inr (.inr ⟨rfl, by simpa using h.symm⟩))

/-- While a send is in flight a step is the sequencer's. -/
theorem step_busy {s : State} (h : s.phase ≠ .idle) : step s = seqStep s := by
  unfold step
  cases hp : s.phase <;> simp_all

/-- In IDLE with nothing issued a step changes nothing. -/
theorem step_idle_nil {s : State} (h : s.phase = .idle) (hi : s.inbox = []) : step s = .next s := by
  simp [step, h, hi]

/-- In IDLE a step serves the next command of the inbox. -/
theorem step_idle_cons {s : State} {c : Command} {rest : List Command} (h : s.phase = .idle)
    (hi : s.inbox = c :: rest) : step s = serve c { s with inbox := rest } := by
  simp [step, h, hi]

/-- All that an advance can do, in the order of 41_transmitter.md R112. -/
theorem advance_cases (s : State) :
    (s.pos.seg.toNat + 1 < (currentSegs s).length ∧
      advance s = ({ s.pos with seg := s.pos.seg + 1 }, .write)) ∨
    (¬ s.pos.seg.toNat + 1 < (currentSegs s).length ∧
      ((s.pos.elem.toNat < 12 ∧ advance s = ({ s.pos with seg := 0, elem := s.pos.elem + 1 }, .write)) ∨
      (¬ s.pos.elem.toNat < 12 ∧
        ((s.pos.rep.toNat + 1 < repeats s.latch.replog ∧
          advance s = ({ s.pos with seg := 0, elem := 0, rep := s.pos.rep + 1 }, .write)) ∨
        (¬ s.pos.rep.toNat + 1 < repeats s.latch.replog ∧
          ((s.pos.tel.toNat + 1 < telegramCount s.latch.ntel ∧
            advance s = ({ tel := s.pos.tel + 1, rep := 0, elem := 0, seg := 0 }, .write)) ∨
          (¬ s.pos.tel.toNat + 1 < telegramCount s.latch.ntel ∧ advance s = (s.pos, .final)))))))) := by
  unfold advance
  by_cases h1 : s.pos.seg.toNat + 1 < (currentSegs s).length
  · exact .inl ⟨h1, if_pos h1⟩
  refine .inr ⟨h1, ?_⟩
  rw [if_neg h1]
  by_cases h2 : s.pos.elem.toNat < 12
  · exact .inl ⟨h2, if_pos h2⟩
  refine .inr ⟨h2, ?_⟩
  rw [if_neg h2]
  by_cases h3 : s.pos.rep.toNat + 1 < repeats s.latch.replog
  · exact .inl ⟨h3, if_pos h3⟩
  refine .inr ⟨h3, ?_⟩
  rw [if_neg h3]
  by_cases h4 : s.pos.tel.toNat + 1 < telegramCount s.latch.ntel
  · exact .inl ⟨h4, if_pos h4⟩
  · exact .inr ⟨h4, if_neg h4⟩

/-- An advance goes on to a WRITE or to FINAL, never to IDLE or WAIT. -/
theorem advance_phase (s : State) : (advance s).2 = .write ∨ (advance s).2 = .final := by
  rcases advance_cases s with ⟨-, h⟩ | ⟨-, ⟨-, h⟩ | ⟨-, ⟨-, h⟩ | ⟨-, ⟨-, h⟩ | ⟨-, h⟩⟩⟩⟩ <;> simp [h]

/-- All that a command's first step can do: RUN's start, or a response with nothing else changed. -/
theorem exec_cases {i : Instr} {s t : State} (h : exec i s = .next t) :
    s.phase = .idle ∧ ((∃ a, t = startRun a s) ∨ ∃ r, t = respond r s) := by
  have launched : ∀ r : Except Reject RunArgs, t = launch r s →
      (∃ a, t = startRun a s) ∨ ∃ r, t = respond r s := by
    rintro r rfl
    rcases launch_cases r s with ⟨a, -, h⟩ | ⟨c, -, h⟩
    · exact .inl ⟨a, h⟩
    · exact .inr ⟨_, h⟩
  have finished : ∀ r : Except Reject Value, t = finish r s → ∃ r, t = respond r s := by
    rintro (c | v) rfl
    · exact ⟨_, finish_error c s⟩
    · exact ⟨_, finish_ok v s⟩
  cases i with
  | pack => exact (accept_cases h).imp_right fun h => .inr (finished _ h)
  | unpack => exact (accept_cases h).imp_right fun h => .inr (finished _ h)
  | sameCode => exact (accept_cases h).imp_right fun h => .inr (finished _ h)
  | sendPacked => exact (accept_cases h).imp_right (launched _)
  | sendTrits => exact (accept_cases h).imp_right (launched _)
  | sendPair => exact (accept_cases h).imp_right (launched _)

/-- All that serving a command can do. -/
theorem serve_cases {c : Command} {s t : State} (h : serve c s = .next t) :
    s.phase = .idle ∧ ((∃ a, t = startRun a s) ∨ ∃ r, t = respond r s) := by
  unfold serve at h
  split at h
  · exact exec_cases h
  · exact (accept_cases h).imp_right fun h => .inr ⟨_, h⟩
  · cases h

end Sys2Proof.Machine
end

