-- ==== Sys2Proof/Laws/Telegram.lean ====
section
/-! SUPPORT. The numbers behind the bit fields: the raw region as a sum of codes, a replayed code as a base-4 digit,
and when a list of codes has trits. -/

namespace Sys2Proof.Machine

/-- A code shifted into the raw region keeps its value times the power of two. -/
theorem shiftedCode_toNat (c : Code2) (n : Nat) (hn : n ≤ 22) : ((c.setWidth 24 : BitVec 24) <<< n).toNat = c.toNat * 2^n := by
  have := c.isLt
  have h4 : c.toNat * 2^n < 2 ^ 24 := by
    calc c.toNat * 2^n < 4 * 2^n := Nat.mul_lt_mul_of_pos_right this (by positivity)
      _ ≤ 4 * 2^22 := Nat.mul_le_mul_left _ (Nat.pow_le_pow_right (by decide) hn)
  rw [BitVec.toNat_shiftLeft, BitVec.toNat_setWidth, Nat.shiftLeft_eq, Nat.mod_eq_of_lt (a := c.toNat) (by omega), Nat.mod_eq_of_lt h4]

/-- Adding a code above a sum that stays below it never carries. -/
theorem addCode_toNat (c : Code2) (n m : Nat) (x : BitVec 24) (hm : m = n + 2) (hn : n ≤ 22) (hx : x.toNat < 2 ^ n) :
    ((c.setWidth 24 : BitVec 24) <<< n + x).toNat = c.toNat * 2^n + x.toNat ∧ ((c.setWidth 24 : BitVec 24) <<< n + x).toNat < 2 ^ m := by
  subst hm
  have := c.isLt
  have h1 : c.toNat * 2^n ≤ 3 * 2^n := Nat.mul_le_mul_right _ (by omega)
  have h2 : 2 ^ (n+2) = 4 * 2^n := by ring
  have h3 : 2 ^ n ≤ 2^22 := Nat.pow_le_pow_right (by decide) hn
  rw [BitVec.toNat_add, shiftedCode_toNat c n hn, Nat.mod_eq_of_lt] <;> omega

/-- The sum of 12 shifted codes, as a number. -/
theorem codeSum_toNat (c0 c1 c2 c3 c4 c5 c6 c7 c8 c9 c10 c11 : Code2) : (((c0.setWidth 24 : BitVec 24) <<< (2 * (11 - 0))) + (((c1.setWidth 24 : BitVec 24) <<< (2 * (11 - 1))) + (((c2.setWidth 24 : BitVec 24) <<< (2 * (11 - 2))) + (((c3.setWidth 24 : BitVec 24) <<< (2 * (11 - 3))) + (((c4.setWidth 24 : BitVec 24) <<< (2 * (11 - 4))) + (((c5.setWidth 24 : BitVec 24) <<< (2 * (11 - 5))) + (((c6.setWidth 24 : BitVec 24) <<< (2 * (11 - 6))) + (((c7.setWidth 24 : BitVec 24) <<< (2 * (11 - 7))) + (((c8.setWidth 24 : BitVec 24) <<< (2 * (11 - 8))) + (((c9.setWidth 24 : BitVec 24) <<< (2 * (11 - 9))) + (((c10.setWidth 24 : BitVec 24) <<< (2 * (11 - 10))) + (((c11.setWidth 24 : BitVec 24) <<< (2 * (11 - 11))) + (0 : BitVec 24))))))))))))).toNat = c0.toNat * 2^22 + c1.toNat * 2^20 + c2.toNat * 2^18 + c3.toNat * 2^16 + c4.toNat * 2^14 + c5.toNat * 2^12 + c6.toNat * 2^10 + c7.toNat * 2^8 + c8.toNat * 2^6 + c9.toNat * 2^4 + c10.toNat * 2^2 + c11.toNat * 2^0 := by
  have z : (0 : BitVec 24).toNat < 2^(2*(11-11)) := by decide
  have e11 := addCode_toNat c11 (2*(11-11)) (2*(11-11)+2) _ rfl (by decide) z
  have e10 := addCode_toNat c10 (2*(11-10)) (2*(11-10)+2) _ rfl (by decide) e11.2
  have e9 := addCode_toNat c9 (2*(11-9)) (2*(11-9)+2) _ rfl (by decide) e10.2
  have e8 := addCode_toNat c8 (2*(11-8)) (2*(11-8)+2) _ rfl (by decide) e9.2
  have e7 := addCode_toNat c7 (2*(11-7)) (2*(11-7)+2) _ rfl (by decide) e8.2
  have e6 := addCode_toNat c6 (2*(11-6)) (2*(11-6)+2) _ rfl (by decide) e7.2
  have e5 := addCode_toNat c5 (2*(11-5)) (2*(11-5)+2) _ rfl (by decide) e6.2
  have e4 := addCode_toNat c4 (2*(11-4)) (2*(11-4)+2) _ rfl (by decide) e5.2
  have e3 := addCode_toNat c3 (2*(11-3)) (2*(11-3)+2) _ rfl (by decide) e4.2
  have e2 := addCode_toNat c2 (2*(11-2)) (2*(11-2)+2) _ rfl (by decide) e3.2
  have e1 := addCode_toNat c1 (2*(11-1)) (2*(11-1)+2) _ rfl (by decide) e2.2
  have e0 := addCode_toNat c0 (2*(11-0)) (2*(11-0)+2) _ rfl (by decide) e1.2
  rw [e0.1, e1.1, e2.1, e3.1, e4.1, e5.1, e6.1, e7.1, e8.1, e9.1, e10.1, e11.1]
  simp; omega

/-- `RAW24(t)` as a number (30_encoding.md R64). -/
theorem raw24_toNat (t : Body) : (raw24 t).toNat = (tritCode t[0]).toNat * 2^22 + (tritCode t[1]).toNat * 2^20 + (tritCode t[2]).toNat * 2^18 + (tritCode t[3]).toNat * 2^16 + (tritCode t[4]).toNat * 2^14 + (tritCode t[5]).toNat * 2^12 + (tritCode t[6]).toNat * 2^10 + (tritCode t[7]).toNat * 2^8 + (tritCode t[8]).toNat * 2^6 + (tritCode t[9]).toNat * 2^4 + (tritCode t[10]).toNat * 2^2 + (tritCode t[11]).toNat * 2^0 := by
  have hr : (List.range 12) = [0,1,2,3,4,5,6,7,8,9,10,11] := rfl
  have hg : ∀ i (h : i < 12), t.toList.getD i .low = t[i] := by
    intro i h; simp [List.getD, h]
  rw [← codeSum_toNat]
  unfold raw24
  rw [hr]
  simp only [List.map_cons, List.map_nil, List.sum_cons, List.sum_nil]
  rw [hg 0 (by decide), hg 1 (by decide), hg 2 (by decide), hg 3 (by decide), hg 4 (by decide), hg 5 (by decide), hg 6 (by decide), hg 7 (by decide), hg 8 (by decide), hg 9 (by decide), hg 10 (by decide), hg 11 (by decide)]

theorem payload20_toNat (t : Body) : (payload20 t).toNat = (raw24 t).toNat % 2 ^ 20 := by
  simp [payload20, BitVec.extractLsb'_toNat]

theorem tritCode_lt (x : Trit) : (tritCode x).toNat < 4 := (tritCode x).isLt

theorem tritCode_injective {x y : Trit} (h : tritCode x = tritCode y) : x = y := by
  revert h
  cases x <;> cases y <;> decide

/-- A replayed code is a base-4 digit of the payload (30_encoding.md R66). -/
theorem replayCode_toNat (pl : Payload20) (i : Nat) :
    (replayCode pl i).toNat = pl.toNat / 2 ^ (22 - 2 * i) % 4 := by
  have := pl.isLt
  rw [replayCode, BitVec.extractLsb'_toNat, Nat.shiftRight_eq_div_pow, BitVec.toNat_setWidth,
    Nat.mod_eq_of_lt (a := pl.toNat) (by omega)]

/-- A list of codes with trits is the codes of its trits. -/
theorem tritsOfCodes_some {l : List Code2} {ts : List Trit} (h : tritsOfCodes l = some ts) :
    l.map tritOfCode = ts.map some := by
  induction l generalizing ts with
  | nil => simp [tritsOfCodes] at h; simp [← h]
  | cons c cs ih =>
    unfold tritsOfCodes at h
    split at h
    · rename_i t ts' h1 h2
      obtain rfl := Option.some.inj h
      simp [h1, ih h2]
    · cases h

/-- The two byte orders are each other's reverse (20_memory.md R42). -/
theorem hostBytes_big (w : Word32) : hostBytes .big w = (hostBytes .little w).reverse := rfl

end Sys2Proof.Machine
end

