-- ==== Sys2Proof/Laws/Waveform.lean ====
section
/-! SUPPORT. What the waveform data is made of, said once: events, plans, bodies, and waveforms that meet
00_scope.md R6. -/

namespace Sys2Proof.Machine

/-- The events of a plan, one segment off its front (41_transmitter.md R104). -/
theorem events_cons (pin : PinId) (p : Period9) (sg : Seg) (segs : List Seg) :
    events pin p (sg :: segs) =
      .write pin sg.1 :: .wait (sg.2 * p.toNat) :: events pin p segs := by
  simp [events, segEvents]

@[simp] theorem events_nil (pin : PinId) (p : Period9) : events pin p [] = [.write pin .low] := rfl

theorem totalPeriods_append (a b : List Seg) : totalPeriods (a ++ b) = totalPeriods a + totalPeriods b := by
  simp [totalPeriods]

theorem bodySegs_length (w : TritWave) (t : Body) :
    (bodySegs w t).length = 2 + (t.toList.map fun x => (tritSegs w x).length).sum := by
  simp [bodySegs, sync, List.length_flatMap]
  omega

theorem plan_length (w : TritWave) (bodies : List Body) (r : Rep3) :
    (plan w bodies r).length = (bodies.map fun t => 2 ^ r.toNat * (bodySegs w t).length).sum := by
  unfold plan repeats
  induction bodies with
  | nil => rfl
  | cons b bs ih => simp [List.flatMap_cons, ih]

/-- Every segment of a plan is one of a body's. -/
theorem mem_plan {w : TritWave} {bodies : List Body} {r : Rep3} {sg : Seg} (h : sg ∈ plan w bodies r) :
    ∃ t ∈ bodies, sg ∈ bodySegs w t := by
  simp only [plan, List.mem_flatMap, List.mem_flatten, List.mem_replicate] at h
  obtain ⟨t, ht, l, ⟨-, rfl⟩, h⟩ := h
  exact ⟨t, ht, h⟩

/-- Each trit's waveform of a TRIT_WAVE that meets 00_scope.md R6 is valid. -/
theorem tritSegs_valid {w : TritWave} (h : w.Valid) (x : Trit) : TritWave.SegsValid (tritSegs w x) := by
  obtain ⟨⟨h1, h2, h3⟩, -⟩ := h
  cases x <;> assumption

/-- A valid waveform has at most 6 segments, and SEG's 3 bits suffice (10_state.md R24). -/
theorem segsValid_length {l : List Seg} (h : TritWave.SegsValid l) : l.length ≤ 6 ∧ 0 < l.length := by
  have aux : ∀ l : List Seg, (∀ sg ∈ l, 1 ≤ sg.2) → l.length ≤ totalPeriods l := by
    intro l
    induction l with
    | nil => intro _; exact Nat.zero_le _
    | cons x xs ih =>
      intro hl
      have h1 := hl x (by simp)
      have h2 := ih fun sg hsg => hl sg (List.mem_cons_of_mem _ hsg)
      simp only [totalPeriods, List.map_cons, List.sum_cons, List.length_cons] at h2 ⊢
      omega
  exact ⟨(aux l h.2.1).trans_eq h.2.2, List.length_pos_iff.2 h.1⟩

/-- A segment of a valid waveform takes at most 6 periods. -/
theorem segsValid_le {l : List Seg} (h : TritWave.SegsValid l) {sg : Seg} (hs : sg ∈ l) : sg.2 ≤ 6 := by
  have := List.single_le_sum (l := l.map fun sg => sg.2) (by simp) _ (List.mem_map_of_mem hs)
  exact this.trans_eq h.2.2

/-- REPEATS(r) is in 1..128 (00_scope.md R5). -/
theorem repeats_range (r : Rep3) : 1 ≤ repeats r ∧ repeats r ≤ 128 :=
  ⟨Nat.one_le_two_pow, Nat.pow_le_pow_right (n := 2) (by decide) (show r.toNat ≤ 7 by omega)⟩

end Sys2Proof.Machine
end

