-- ==== Sys2Proof/Tests/Slice0.lean ====
section
/-! SUPPORT. The model's own tests. Expected values come from spec/95_test_vectors.md (the vector is named) or
from the rule named; each witness shows a state and operands that meet the hypotheses of the statement it names. -/

namespace Sys2Proof.Machine

/-! ### Helpers -/

/-- A trit list from its letters (30_encoding.md R72). -/
def testTrits (l : List Char) : List Trit := (parseTrits ('[' :: (l ++ [']']))).getD []

/-- The response a step leaves. -/
def testResponse (o : Host.Outcome State Fault Refusal) : Option Response :=
  match o with
  | .next s => s.response
  | _ => none

/-- What a step leaves, seen through `f`. -/
def testNext {α : Type} (f : State → α) (o : Host.Outcome State Fault Refusal) : Option α :=
  match o with
  | .next s => some (f s)
  | _ => none

/-- A small state of a send of 12 LOW trits on p0 in flight, period 1 (95_test_vectors.md 2.7). -/
def testSend (phase : Phase) (tel : BitVec 1) (rep : BitVec 7) (elem : BitVec 4) (seg : BitVec 3)
    (ntel : Telegrams) : State :=
  { State.reset with
    phase := phase
    pos := { tel := tel, rep := rep, elem := elem, seg := seg }
    latch := { Latches.reset with period := 1, replog := 1, ntel := ntel } }

/-- The phase, and TEL, REP, ELEM, SEG. -/
def testPlace (s : State) : Phase × List Nat :=
  (s.phase, [s.pos.tel.toNat, s.pos.rep.toNat, s.pos.elem.toNat, s.pos.seg.toNat])

/-! ### Well-formedness: an ill-formed term for each check, refused -/

theorem test_wf_trits : (Instr.pack (List.replicate 11 .low) 0 0).wellFormed = false := by decide
theorem test_wf_period : (Instr.pack (List.replicate 12 .low) 512 0).wellFormed = false := by decide
theorem test_wf_replog : (Instr.sendTrits (List.replicate 12 .low) 511 8 ⟨0⟩).wellFormed = false := by decide
theorem test_wf_packed_code : (Instr.sendPacked 0x12345678 ⟨0⟩).wellFormed = false := by decide
theorem test_wf_pair_range : (Instr.sendPair 0x100000 0 10 0 ⟨0⟩).wellFormed = false := by decide
theorem test_wf_pair_code : (Instr.sendPair 0 1 10 0 ⟨0⟩).wellFormed = false := by decide
theorem test_wf_legal : (Instr.sendPair 0 0xFFFFF 511 7 ⟨9⟩).wellFormed = true := by decide

/-- 00_scope.md R6 (a): 7 periods are refused. -/
theorem test_wave_total : ¬ ({ TritWave.default with float := [(.high, 2), (.low, 5)] } : TritWave).Valid := by decide
/-- 00_scope.md R6: a segment of 0 periods is refused. -/
theorem test_wave_zero : ¬ ({ TritWave.default with float := [(.high, 0), (.low, 6)] } : TritWave).Valid := by decide
/-- 00_scope.md R6: an empty list is refused. -/
theorem test_wave_empty : ¬ ({ TritWave.default with float := [] } : TritWave).Valid := by decide
/-- 00_scope.md R6 (c): two waveforms HIGH for 2 periods are refused although they differ. -/
theorem test_wave_high : ¬ ({ TritWave.default with low := [(.low, 4), (.high, 2)] } : TritWave).Valid := by decide
/-- PIN_INIT out of canonical form is refused. -/
theorem test_pin_init : ¬ ({ Config.default with pinInit := [(⟨1⟩, .low), (⟨0⟩, .low)] } : Config).Valid := by decide

/-! ### Decoding: selectors written out from 30_encoding.md R68 -/

theorem test_decode_pack :
    decode ⟨0b000#3, [.trits (testTrits ['L', 'H']), .nat 600, .nat 9]⟩ = .instr (.pack [.low, .high] 600 9) := by
  decide
theorem test_decode_unpack : decode ⟨0b001#3, [.word 0x5F3AAAAA]⟩ = .instr (.unpack 0x5F3AAAAA) := by decide
theorem test_decode_same_code :
    decode ⟨0b010#3, [.word 0x5F3AAAAA, .word 0xAAAAA]⟩ = .instr (.sameCode 0x5F3AAAAA 0xAAAAA) := by decide
theorem test_decode_send_packed :
    decode ⟨0b011#3, [.word 0x0A080003, .pin ⟨3⟩]⟩ = .instr (.sendPacked 0x0A080003 ⟨3⟩) := by decide
theorem test_decode_send_trits :
    decode ⟨0b100#3, [.trits [.float], .nat 20, .nat 1, .pin ⟨3⟩]⟩ = .instr (.sendTrits [.float] 20 1 ⟨3⟩) := by
  decide
theorem test_decode_send_pair :
    decode ⟨0b101#3, [.nat 1, .nat 2, .nat 3, .nat 4, .pin ⟨5⟩]⟩ = .instr (.sendPair 1 2 3 4 ⟨5⟩) := by decide
/-- Vectors T-R1, T-R2, with operands of no format. -/
theorem test_decode_reserved :
    decode ⟨0b110#3, [.nat 1]⟩ = .reservedOp 6 ∧ decode ⟨0b111#3, []⟩ = .reservedOp 7 := by decide
/-- PACK's selector with UNPACK's operand is no command (30_encoding.md R71). -/
theorem test_decode_malformed : decode ⟨0b000#3, [.word 0]⟩ = .malformedOperands 0 := by decide

/-! ### One step of each instruction -/

/-- Vector T-P4. -/
theorem test_pack_word :
    testResponse (exec (.pack (testTrits "FHLFHHLLFLHF".toList) 350 4) .reset) =
      some (.ok (some (.word 0xAF42F08E))) := by decide
/-- Vector T-P16: E_TRIT_COUNT (2) goes first. -/
theorem test_pack_priority :
    (testResponse (exec (.pack (List.replicate 11 .low) 600 9) .reset)).map statusCode = some 2 := by decide
/-- Vector T-U7. -/
theorem test_unpack_fields :
    testResponse (exec (.unpack 0x12345678) .reset) = some (.ok (some (.fields 36 3 0x45678))) := by decide
/-- Vector T-U10: bit 22 is REPLOG bit 2. -/
theorem test_unpack_bit22 :
    testResponse (exec (.unpack 0x00400000) .reset) = some (.ok (some (.fields 0 4 0))) := by decide
/-- Vector T-S4: bit 19 is payload. -/
theorem test_same_code_bit19 :
    testResponse (exec (.sameCode 0x00080000 0) .reset) = some (.ok (some (.truth false))) := by decide
/-- Vector T-S3: bit 20 is REPLOG. -/
theorem test_same_code_bit20 :
    testResponse (exec (.sameCode 0x00100000 0) .reset) = some (.ok (some (.truth true))) := by decide
/-- Vector T-SP7: trit 2 has code 0b01. -/
theorem test_send_packed_rejects :
    (testResponse (exec (.sendPacked 0x12345678 ⟨0⟩) .reset)).map statusCode = some 6 := by decide
/-- Vector T-SP8: the trits replayed. -/
theorem test_send_packed_starts :
    testNext (fun s => (s.phase, s.latch.period, s.latch.replog, s.latch.bodyA.toList))
      (exec (.sendPacked 0x0A080003 ⟨0⟩) .reset) =
      some (.write, 20, 0, testTrits "LLFLLLLLLLLH".toList) := by decide
/-- Vector T-R4. -/
theorem test_send_trits_rejects :
    (testResponse (exec (.sendTrits (List.replicate 12 .low) 511 8 ⟨0⟩) .reset)).map statusCode = some 4 := by
  decide
/-- Vector T-ST6: trits 0 and 1 are sent. -/
theorem test_send_trits_starts :
    testNext (fun s => (s.phase, s.latch.pin, s.latch.bodyA.toList))
      (exec (.sendTrits (testTrits "HHFLLLLLLLLH".toList) 20 0 ⟨7⟩) .reset) =
      some (.write, ⟨7⟩, testTrits "HHFLLLLLLLLH".toList) := by decide
/-- Vector T-PR5: E_PAYLOAD_RANGE of B outranks E_RESERVED_CODE of A. -/
theorem test_send_pair_priority :
    (testResponse (exec (.sendPair 1 0x100000 10 0 ⟨0⟩) .reset)).map statusCode = some 5 := by decide
/-- Vector T-PR1: the second telegram. -/
theorem test_send_pair_starts :
    testNext (fun s => (s.latch.ntel, s.latch.bodyB.toList)) (exec (.sendPair 0 0xFFFFF 10 0 ⟨0⟩) .reset) =
      some (.two, testTrits "LLHHHHHHHHHH".toList) := by decide

/-! ### The sequencer walk of 95_test_vectors.md 2.7, one step each -/

/-- Step 1. -/
theorem test_walk_1 :
    testNext (fun s => (testPlace s, s.trace, readPin s.pinlvl ⟨0⟩)) (step (testSend .write 0 0 0 0 .one)) =
      some ((.wait, [0, 0, 0, 0]), [.write ⟨0⟩ .high], some .high) := by decide
/-- Step 4. -/
theorem test_walk_4 :
    testNext (fun s => (testPlace s, s.trace)) (step (testSend .wait 0 0 0 1 .one)) =
      some ((.write, [0, 0, 1, 0]), [.wait 31]) := by decide
/-- Step 52. -/
theorem test_walk_52 :
    testNext (fun s => (testPlace s, s.trace)) (step (testSend .wait 0 0 12 1 .one)) =
      some ((.write, [0, 1, 0, 0]), [.wait 5]) := by decide
/-- Step 104. -/
theorem test_walk_104 :
    testNext (fun s => s.phase) (step (testSend .wait 0 1 12 1 .one)) = some .final := by decide
/-- Step 104 of a pair: telegram B follows (41_transmitter.md R112). -/
theorem test_walk_pair :
    testNext testPlace (step (testSend .wait 0 1 12 1 .two)) = some (.write, [1, 0, 0, 0]) := by decide
/-- Step 105. -/
theorem test_walk_105 :
    testNext (fun s => (s.phase, s.trace, s.response)) (step (testSend .final 0 1 12 1 .one)) =
      some (.idle, [.write ⟨0⟩ .low], some (.ok none)) := by decide
/-- ELEM = 13 names no element (log 12). -/
theorem test_off_waveform : step (testSend .write 0 0 13 0 .one) = .fault .sequencerOffWaveform := by rfl

/-! ### Big-step data, host interface, assembler -/

/-- Vector T-ST1: 27 Writes, 26 Waits, 1040 microseconds. -/
theorem test_events_counts :
    let e := events ⟨0⟩ 10 (plan TritWave.default [Vector.replicate 12 .low] 0)
    writeCount e = 27 ∧ waitCount e = 26 ∧ waitSum e = 1040 := by decide
/-- A reserved selector after a table word: E_OP_RESERVED (T-R1). -/
theorem test_reserved_step :
    (testResponse (step (State.reset.withFetchWord 8 0b110))).map statusCode = some 1 := by decide
/-- A reset during a send is refused (70_reset_and_hazards.md R161). -/
theorem test_reset_during_send : hostReset (testSend .wait 0 0 0 0 .one) = .refused .resetDuringSend := by rfl
/-- A line of program PR2. -/
theorem test_assemble_line :
    assemble "SEND_TRITS  [HHFLLLLLLLLH], 20, 0, p0  ; OP 100 -> OK".toList =
      some (encode (.sendTrits (testTrits "HHFLLLLLLLLH".toList) 20 0 ⟨0⟩)) := by decide
/-- Two lines of program PR3, with a comment line between them. -/
theorem test_assemble_program :
    assembleProgram "SEND_PACKED 0x12345678, p0\n; then\nSEND_PAIR   0x00000, 0xFFFFF, 10, 0, p0 ; OP 101".toList =
      some [encode (.sendPacked 0x12345678 ⟨0⟩), encode (.sendPair 0 0xFFFFF 10 0 ⟨0⟩)] := by decide
theorem test_assemble_unknown : assemble "NOP 1".toList = none := by decide

/-! ### Witnesses of the statements' hypotheses -/

/-- A second idle state, its unread registers and its counter unlike the reset state's. -/
def testIdle : State :=
  { State.reset with
    pos := { tel := 1, rep := 5, elem := 13, seg := 7 }
    latch := { Latches.reset with period := 511, ntel := .two }
    freeCount := 4 }

theorem witness_ReservedSelectorIsRejectedUnread :
    ((0b110#3 : Selector) = 0b110#3 ∨ (0b110#3 : Selector) = 0b111#3) ∧ State.reset.phase = .idle := by decide
theorem witness_ReservedSelectorIsRejectedUnread_top :
    (0b111#3 : Selector) = 0b110#3 ∨ (0b111#3 : Selector) = 0b111#3 := by decide
/-- Also of the other statements about an idle state. -/
theorem witness_idle_and_valid : State.reset.phase = .idle ∧ State.reset.config.Valid := by decide
theorem witness_ReplayDecodesTwelveCodes :
    replay 0x2F08E ≠ none ∧ (replay 0x2F08E).map Vector.toList = some (testTrits "LLLFHHLLFLHF".toList) := by decide
theorem witness_PackReturnsTheWordOrItsRejection :
    (List.replicate 13 Trit.low).length ≠ 12 ∧ (List.replicate 12 Trit.low).length = 12 ∧ 511 < 512 ∧ 511 ≤ 511 ∧
      7 < 8 := by decide
theorem witness_PackReturnsTheWordOrItsRejection_legal :
    testResponse (exec (.pack (List.replicate 12 .high) 511 7) .reset) = some (.ok (some (.word 0xFFFFFFFF))) := by
  decide
theorem witness_SameCodeIsAnEquivalence :
    sameCode 0x00700000 0 = true ∧ sameCode 0 0xFFF00000 = true := by decide
theorem witness_CodecCommandsArePure : isCodec (.unpack 0) = true := by decide
theorem witness_BodyTakesOneHundredFourPeriods : TritWave.default.Valid := by decide
theorem witness_EventsAreOneWriteAndOneWaitASegment : sync[1]? = some (.low, 31) := by decide
theorem witness_NoWaitIsLongerThanTheSyncAtFullPeriod :
    TritWave.default.Valid ∧
      (⟨⟨0⟩, 511, 0, Vector.replicate 12 .low, none⟩ : RunArgs).period = 511#9 := by decide
theorem witness_WriteStepWritesTheSegmentLevel :
    (testSend .write 0 0 12 1 .one).phase = .write ∧
      currentSeg (testSend .write 0 0 12 1 .one) = some (.low, 5) := by decide
/-- Each clause of the WAIT step: segment, element (at 0 and at 11), repeat, telegram, end. -/
theorem witness_WaitStepAdvancesInnermostFirst :
    (∀ s ∈ [testSend .wait 0 0 0 0 .one, testSend .wait 0 0 0 1 .one, testSend .wait 0 0 11 1 .one,
        testSend .wait 0 0 12 1 .one, testSend .wait 0 1 12 1 .two, testSend .wait 1 1 12 1 .two],
      s.phase = .wait ∧ s.config.Valid ∧ currentSeg s ≠ none ∧ s.pos.elem.toNat ≤ 12 ∧
      s.pos.seg.toNat < (currentSegs s).length ∧ s.pos.rep.toNat < repeats s.latch.replog ∧
      s.pos.tel.toNat < telegramCount s.latch.ntel) ∧
    (testSend .wait 0 0 0 0 .one).pos.seg.toNat + 1 < (currentSegs (testSend .wait 0 0 0 0 .one)).length ∧
    (testSend .wait 0 0 12 1 .one).pos.seg.toNat + 1 = (currentSegs (testSend .wait 0 0 12 1 .one)).length := by
  decide
theorem witness_FinalStepReturnsOkWithThePinLow : (testSend .final 0 1 12 1 .one).phase = .final := by decide
/-- Two states of one send that differ in trace, inbox and pin levels. -/
theorem witness_SequencerReadsOnlyItsOwnState :
    let s := testSend .write 0 0 0 0 .one
    let t := { s with trace := [.wait 3], inbox := [encode (.unpack 1)], pinlvl := [(⟨4⟩, .high)] }
    s.phase ≠ .idle ∧ s.phase = t.phase ∧ s.pos = t.pos ∧ s.latch = t.latch ∧ s.config = t.config ∧
      testNext (fun u => u.phase) (step s) = some .wait := by decide
theorem witness_SequencerEmitsExactlyThePlannedEvents :
    State.reset.phase = .idle ∧ State.reset.config.Valid ∧
      (bodySegs State.reset.config.tritWave (Vector.replicate 12 .float)).length = 26 := by decide
theorem witness_SendPackedReplaysTheWord :
    (∃ i < 10, (0x00040000 : Word32).extractLsb' (2 * i) 2 = 0b01#2) ∧
      ¬ ∃ i < 10, (0xFFFFFFFF : Word32).extractLsb' (2 * i) 2 = 0b01#2 := by decide
theorem witness_SendPairSendsBothPayloads :
    (replay 0).isSome = true ∧ (replay 0xFFFFF).isSome = true ∧ replay (BitVec.ofNat 20 1) = none ∧
      0xFFFFF < 0x100000 := by decide
/-- A send that is not rejected: of SendDurationDoesNotDependOnItsData and SendEventCounts. -/
theorem witness_SendDurationDoesNotDependOnItsData :
    State.reset.phase = .idle ∧ State.reset.config.Valid ∧ State.reset.config.tritWave = TritWave.default ∧
      testNext (fun t => t.phase) (exec (.sendPacked 0x5F3AAAAA ⟨0⟩) .reset) = some .write := by decide
theorem witness_PathsAgreeExactlyWhenTwoTritsAreLow : TritWave.default.Valid ∧ (1 : Period9) ≠ 0 := by decide
theorem witness_FirstCauseIsReported :
    causes (.pack (List.replicate 11 .low) 600 9) = [.tritCount, .periodRange, .repeatRange] ∧
      causes (.sendPair 1 0x100000 10 0 ⟨0⟩) = [.payloadRange, .reservedCode] ∧
      causes (.sendPair 0 0xFFFFF 511 7 ⟨0⟩) = [] := by decide
/-- A rejection: of OnlyTheRowsOwnCausesAreRaised and RejectionLeavesNoTrace. -/
theorem witness_RejectionLeavesNoTrace :
    testResponse (exec (.sendPair 0 1 10 0 ⟨0⟩) .reset) = some (.rejected .reservedCode) := by decide
theorem witness_NoCommandActsBeforeItsFirstEvent :
    testNext (fun t => t.phase) (exec (.sendTrits (List.replicate 12 .low) 0 7 ⟨0⟩) testIdle) = some .write := by
  decide
theorem witness_SendInFlightAcceptsNoCommand :
    (testSend .wait 0 0 0 0 .one).phase ≠ .idle ∧
      testNext (fun t => t.trace) (step (testSend .wait 0 0 0 0 .one)) = some [.wait 1] := by decide
/-- An instruction, a reserved selector and malformed operands in the inbox of an idle state. -/
theorem witness_StepRunsTheDecodedCommand :
    decode (encode (.unpack 1)) = .instr (.unpack 1) ∧ decode ⟨0b110#3, []⟩ = .reservedOp 6 ∧
      decode ⟨0b001#3, []⟩ = .malformedOperands 1 ∧
      ({ State.reset with inbox := [encode (.unpack 1)] } : State).inbox = [encode (.unpack 1)] := by decide
theorem witness_FetchedTableWordRunsNext : decodeTableWord 8 5 = some (.sendPair 0 0 0 0 ⟨0⟩) := by decide
/-- Idle with and without a command, and busy: of CommandsAreServedOneAtATime and TraceIsAppendOnly. -/
theorem witness_CommandsAreServedOneAtATime :
    testNext (fun t => t.inbox) (step State.reset) = some [] ∧
      testNext (fun t => t.response) (step { State.reset with inbox := [encode (.unpack 1)] }) =
        some (some (.ok (some (.fields 0 0 1)))) ∧
      testNext (fun t => t.phase) (step (testSend .write 0 0 0 0 .one)) = some .wait := by decide
/-- A Write step, a Wait step and a return: of OnlyAWriteMovesItsPin and OnlyTheSendsPinIsDriven. -/
theorem witness_OnlyTheSendsPinIsDriven :
    testNext (fun t => readPin t.pinlvl ⟨0⟩) (step (testSend .write 0 0 0 0 .one)) = some (some .high) ∧
      testNext (fun t => t.pinlvl) (step (testSend .wait 0 0 0 0 .one)) = some [] ∧
      testNext (fun t => t.phase) (step (testSend .final 0 1 12 1 .one)) = some .idle := by decide
theorem witness_ConfigurationNeverChanges :
    testNext (fun t => t.phase) (run 2 (testSend .write 0 0 0 0 .one)) = some .write := by decide
theorem witness_HostResetOnlyWhenIdle :
    testIdle.phase = .idle ∧ (testSend .final 0 1 12 1 .one).phase ≠ .idle := by decide
theorem witness_InvariantHoldsAtReset : Config.default.Valid := by decide
/-- Two idle states that differ in every unread register, and a run of both through a command. -/
theorem witness_IdleRegistersAreNeverRead :
    SameButUnread { State.reset with inbox := [encode (.sendPacked 0 ⟨0⟩)] }
      { testIdle with inbox := [encode (.sendPacked 0 ⟨0⟩)] } ∧
    testIdle.pos ≠ State.reset.pos ∧ testIdle.latch ≠ State.reset.latch ∧
    testNext (fun t => t.trace) (run 2 { State.reset with inbox := [encode (.sendPacked 0 ⟨0⟩)] }) =
      some [.write ⟨0⟩ .high] :=
  ⟨⟨rfl, rfl, rfl, rfl, rfl, rfl⟩, by decide, by decide, by decide⟩

/-- A state with a send in flight that meets the invariant, and a step from it: of EveryStepKeepsTheInvariant and
NoRunFaultsOrHangs. -/
theorem witness_EveryStepKeepsTheInvariant :
    Inv (testSend .write 0 0 0 0 .one) ∧
      testNext (fun t => t.phase) (step (testSend .write 0 0 0 0 .one)) = some .wait :=
  ⟨{ configValid := by decide
     inFlight := fun _ => ⟨by unfold PositionInRange; decide, rfl, fun h => by cases h⟩
     pinAtLevel := fun h => by cases h
     pinsFollow := rfl
     pinsCanonical := by decide
     waitsBounded := fun e he => by cases he }, by decide⟩

end Sys2Proof.Machine
end

section
/-! The default TRIT_WAVE and the source's own FLOAT (00_scope.md R6, 90_conflicts.md C2). -/

namespace Sys2Proof.Machine

/-- The total of R6 (c) can be read off the level sequence of R6 (b). -/
theorem count_high_levelSequence (segs : List Seg) :
    (levelSequence segs).count .high = highPeriods segs := by
  induction segs with
  | nil => rfl
  | cons sg segs ih =>
    simp only [levelSequence, highPeriods] at ih
    simp [levelSequence, highPeriods, List.count_replicate, ih]

/-- Lists that differ in R6 (c) differ in R6 (b). -/
theorem levelSequence_ne_of_highPeriods_ne {a b : List Seg} (h : highPeriods a ≠ highPeriods b) :
    levelSequence a ≠ levelSequence b := fun hseq =>
  h (by rw [← count_high_levelSequence, ← count_high_levelSequence, hseq])

/-- Condition (b) of R6 follows from (c). -/
theorem tritWave_valid_iff (w : TritWave) :
    w.Valid ↔
      (TritWave.SegsValid w.low ∧ TritWave.SegsValid w.high ∧ TritWave.SegsValid w.float) ∧
      (highPeriods w.low ≠ highPeriods w.high ∧ highPeriods w.low ≠ highPeriods w.float ∧
        highPeriods w.high ≠ highPeriods w.float) := by
  constructor
  · rintro ⟨hsegs, -, hhigh⟩
    exact ⟨hsegs, hhigh⟩
  · rintro ⟨hsegs, hlh, hlf, hhf⟩
    exact ⟨hsegs, ⟨levelSequence_ne_of_highPeriods_ne hlh, levelSequence_ne_of_highPeriods_ne hlf,
      levelSequence_ne_of_highPeriods_ne hhf⟩, hlh, hlf, hhf⟩

/-- The pin cannot tell two neighbouring segments of one level from a single segment. -/
theorem levelSequence_merge (l : Level) (a b : Nat) (segs : List Seg) :
    levelSequence ((l, a) :: (l, b) :: segs) = levelSequence ((l, a + b) :: segs) := by
  simp [levelSequence, ← List.append_assoc]

/-- The default TRIT_WAVE is HIGH for 1, 5 and 2 of the 6 periods. -/
theorem tritWaveDefault_valid : TritWave.default.Valid := by
  have hsegs : TritWave.SegsValid TritWave.default.low ∧ TritWave.SegsValid TritWave.default.high ∧
      TritWave.SegsValid TritWave.default.float := by decide
  have hlow : highPeriods TritWave.default.low = 1 := rfl
  have hhigh : highPeriods TritWave.default.high = 5 := rfl
  have hfloat : highPeriods TritWave.default.float = 2 := rfl
  rw [tritWave_valid_iff, hlow, hhigh, hfloat]
  exact ⟨hsegs, by decide⟩

/-- The default instance leaves PIN_INIT empty, so only its TRIT_WAVE has conditions to meet. -/
theorem configDefault_valid : Config.default.Valid := ⟨tritWaveDefault_valid, List.Pairwise.nil⟩

/-- The source's FLOAT, its two LOW segments merged, is the default LOW, which R6 (b) forbids
(90_conflicts.md C2). -/
theorem sourceFloat_not_valid :
    ¬ ({ TritWave.default with float := [(.high, 1), (.low, 1), (.low, 4)] } : TritWave).Valid := by
  rintro ⟨-, ⟨-, hlf, -⟩, -⟩
  have hmerge : levelSequence [(.low, 1), (.low, 4)] = levelSequence [(.low, 5)] :=
    levelSequence_merge .low 1 4 []
  exact hlf (congrArg (Level.high :: ·) hmerge.symm)

/-- Settles O18: the default FLOAT differs from LOW in its HIGH periods; the source's spells the same levels. -/
theorem defaultInstanceMeetsItsConditions : Obligations.DefaultInstanceMeetsItsConditions :=
  ⟨configDefault_valid, rfl, rfl, rfl, sourceFloat_not_valid⟩

end Sys2Proof.Machine
end

section
/-! The rules the whole-machine statements rest on: what a command, a step and a run can do, and what the
segments of an element are. -/

namespace Sys2Proof.Machine

/-- A codec command's one result, whatever the state (10_state.md R30). -/
theorem finish_uniform (r : Except Reject Value) : ∃ q, ∀ s, finish r s = respond q s := by
  cases r with
  | ok v => exact ⟨_, finish_ok v⟩
  | error c => exact ⟨_, finish_error c⟩

/-- A command issued in IDLE does the same in every state: its one response, or RUN with its one set of
operands. Only a send command starts RUN. -/
theorem exec_idle (i : Instr) :
    (∃ q, ∀ s : State, s.phase = .idle → exec i s = .next (respond q s)) ∨
    (isCodec i = false ∧ ∃ a, ∀ s : State, s.phase = .idle → exec i s = .next (startRun a s)) := by
  have codec : ∀ r : Except Reject Value, (∀ s, exec i s = accept s (finish r s)) →
      ∃ q, ∀ s : State, s.phase = .idle → exec i s = .next (respond q s) := by
    intro r hexec
    obtain ⟨q, hq⟩ := finish_uniform r
    exact ⟨q, fun s hs => by rw [hexec, hq, accept_idle _ hs]⟩
  have send : ∀ r : Except Reject RunArgs, (∀ s, exec i s = accept s (launch r s)) →
      (∃ q, ∀ s : State, s.phase = .idle → exec i s = .next (respond q s)) ∨
      ∃ a, ∀ s : State, s.phase = .idle → exec i s = .next (startRun a s) := by
    intro r hexec
    cases r with
    | ok a => exact .inr ⟨a, fun s hs => by rw [hexec, launch_ok, accept_idle _ hs]⟩
    | error c => exact .inl ⟨_, fun s hs => by rw [hexec, launch_error, accept_idle _ hs]⟩
  cases i with
  | pack => exact .inl (codec _ fun _ => rfl)
  | unpack => exact .inl (codec _ fun _ => rfl)
  | sameCode => exact .inl (codec _ fun _ => rfl)
  | sendPacked => exact (send _ fun _ => rfl).imp_right fun h => ⟨rfl, h⟩
  | sendTrits => exact (send _ fun _ => rfl).imp_right fun h => ⟨rfl, h⟩
  | sendPair => exact (send _ fun _ => rfl).imp_right fun h => ⟨rfl, h⟩

/-- Serving a command in IDLE does the same in every state, as `exec_idle`; or it is no command. -/
theorem serve_idle (c : Command) :
    (∃ q, ∀ s : State, s.phase = .idle → serve c s = .next (respond q s)) ∨
    (∃ a, ∀ s : State, s.phase = .idle → serve c s = .next (startRun a s)) ∨
    ∀ s : State, serve c s = .refused .malformedOperands := by
  cases hc : decode c with
  | instr i =>
    have hserve : ∀ s, serve c s = exec i s := fun s => by simp [serve, hc]
    simp only [hserve]
    rcases exec_idle i with h | ⟨-, h⟩
    · exact .inl h
    · exact .inr (.inl h)
  | reservedOp op =>
    exact .inl ⟨.rejected .opReserved, fun s hs => by simp [serve, hc, execReserved, accept_idle _ hs]⟩
  | malformedOperands op => exact .inr (.inr fun s => by simp [serve, hc])

/-- The six things a step that goes on can do: `s` is before it, the index after it. -/
inductive StepCase (s : State) : State → Prop
  /-- IDLE, with no command issued (log 7). -/
  | waiting (hphase : s.phase = .idle) (hinbox : s.inbox = []) : StepCase s s
  /-- IDLE, and the next command returns at once. -/
  | responds (hphase : s.phase = .idle) (c : Command) (rest : List Command) (hinbox : s.inbox = c :: rest)
      (q : Response) : StepCase s (respond q { s with inbox := rest })
  /-- IDLE, and the next command starts RUN (41_transmitter.md R110). -/
  | starts (hphase : s.phase = .idle) (c : Command) (rest : List Command) (hinbox : s.inbox = c :: rest)
      (a : RunArgs) : StepCase s (startRun a { s with inbox := rest })
  /-- The WRITE step (41_transmitter.md R111). -/
  | write (hphase : s.phase = .write) (sg : Seg) (hseg : currentSeg s = some sg) :
      StepCase s { emit (.write s.latch.pin sg.1) s with phase := .wait }
  /-- The WAIT step (41_transmitter.md R112). -/
  | wait (hphase : s.phase = .wait) (sg : Seg) (hseg : currentSeg s = some sg) :
      StepCase s { emit (.wait (sg.2 * s.latch.period.toNat)) s with pos := (advance s).1, phase := (advance s).2 }
  /-- The FINAL step (41_transmitter.md R113). -/
  | final (hphase : s.phase = .final) : StepCase s (seqFinal s)

/-- All that a step can do. -/
theorem step_cases {s t : State} (h : step s = .next t) : StepCase s t := by
  by_cases hp : s.phase = .idle
  · cases hi : s.inbox with
    | nil =>
      rw [step_idle_nil hp hi] at h
      cases h
      exact .waiting hp hi
    | cons c rest =>
      rw [step_idle_cons hp hi] at h
      obtain ⟨-, ⟨a, rfl⟩ | ⟨q, rfl⟩⟩ := serve_cases h
      · exact .starts hp c rest hi a
      · exact .responds hp c rest hi q
  · rw [step_busy hp] at h
    rcases seqStep_cases h with ⟨hidle, -⟩ | ⟨hw, h⟩ | ⟨hw, h⟩ | ⟨hf, rfl⟩
    · exact absurd hidle hp
    · obtain ⟨sg, hseg, rfl⟩ := seqWrite_cases h
      exact .write hw sg hseg
    · obtain ⟨sg, hseg, rfl⟩ := seqWait_cases h
      exact .wait hw sg hseg
    · exact .final hf

/-- In a WRITE phase the step goes on where the position names a segment (41_transmitter.md R111). -/
theorem step_write {s : State} {sg : Seg} (hphase : s.phase = .write) (hseg : currentSeg s = some sg) :
    step s = .next { emit (.write s.latch.pin sg.1) s with phase := .wait } := by
  simp [step_busy, seqStep, seqWrite, hphase, hseg]

/-- In a WAIT phase the step goes on where the position names a segment (41_transmitter.md R112). -/
theorem step_wait {s : State} {sg : Seg} (hphase : s.phase = .wait) (hseg : currentSeg s = some sg) :
    step s = .next { emit (.wait (sg.2 * s.latch.period.toNat)) s with
      pos := (advance s).1, phase := (advance s).2 } := by
  simp [step_busy, seqStep, seqWait, hphase, hseg]

/-- In FINAL the step always goes on (41_transmitter.md R113). -/
theorem step_final {s : State} (hphase : s.phase = .final) : step s = .next (seqFinal s) := by
  simp [step_busy, seqStep, hphase]

/-! The fields after a FINAL step. -/

@[simp] theorem seqFinal_phase (s : State) : (seqFinal s).phase = .idle := rfl
@[simp] theorem seqFinal_pinlvl (s : State) :
    (seqFinal s).pinlvl = writePin s.pinlvl s.latch.pin .low := rfl
@[simp] theorem seqFinal_trace (s : State) :
    (seqFinal s).trace = s.trace ++ [.write s.latch.pin .low] := rfl
@[simp] theorem seqFinal_config (s : State) : (seqFinal s).config = s.config := rfl
@[simp] theorem seqFinal_inbox (s : State) : (seqFinal s).inbox = s.inbox := rfl
@[simp] theorem seqFinal_response (s : State) : (seqFinal s).response = some (.ok none) := rfl

/-- A run of one step more takes that step first. -/
theorem run_succ {k : Nat} {s u : State} (h : step s = .next u) : run (k + 1) s = run k u := by
  simp [run, h]

/-- A run that answers a state took its first step. -/
theorem run_succ_cases {k : Nat} {s t : State} (h : run (k + 1) s = .next t) :
    ∃ u, step s = .next u ∧ run k u = .next t := by
  cases hs : step s with
  | next u => exact ⟨u, rfl, run_succ hs ▸ h⟩
  | fault f => simp [run, hs] at h
  | refused r => simp [run, hs] at h

/-- What every step keeps, every run keeps. -/
theorem run_keeps {P : State → Prop} (hstep : ∀ s t, P s → step s = .next t → P t) {k : Nat} {s t : State}
    (hs : P s) (h : run k s = .next t) : P t := by
  induction k generalizing s with
  | zero => cases h; exact hs
  | succ k ih =>
    obtain ⟨u, hu, hrun⟩ := run_succ_cases h
    exact ih (hstep s u hs hu) hrun

/-- No step writes the configuration (10_state.md R23). -/
theorem step_config {s t : State} (h : step s = .next t) : t.config = s.config := by
  cases step_cases h <;> rfl

/-- An element is the sync, or the waveform of a trit, or ELEM is above 12 and there is none. -/
theorem elemSegs_cases (w : TritWave) (la : Latches) (tel : BitVec 1) (e : BitVec 4) :
    elemSegs w la tel e = sync ∨ (∃ x, elemSegs w la tel e = tritSegs w x) ∨ 12 < e.toNat := by
  unfold elemSegs
  split
  · exact .inl rfl
  · cases hx : (bodyAt la tel).toList[e.toNat - 1]? with
    | some x => exact .inr (.inl ⟨x, rfl⟩)
    | none =>
      have hlen := List.getElem?_eq_none_iff.1 hx
      rw [body_length] at hlen
      exact .inr (.inr (by omega))

/-- An element that ELEM may name has 1 to 6 segments, so SEG's 3 bits suffice (10_state.md R24). -/
theorem elemSegs_length {w : TritWave} (hw : w.Valid) (la : Latches) (tel : BitVec 1) {e : BitVec 4}
    (he : e.toNat ≤ 12) : 0 < (elemSegs w la tel e).length ∧ (elemSegs w la tel e).length ≤ 6 := by
  rcases elemSegs_cases w la tel e with h | ⟨x, h⟩ | h
  · rw [h]; decide
  · rw [h]; exact (segsValid_length (tritSegs_valid hw x)).symm
  · omega

/-- The segment a position in range names takes at most 31 periods, as the sync's LOW does
(70_reset_and_hazards.md R171). -/
theorem currentSeg_periods_le {s : State} {sg : Seg} (hw : s.config.tritWave.Valid)
    (he : s.pos.elem.toNat ≤ 12) (h : currentSeg s = some sg) : sg.2 ≤ 31 := by
  have hmem : sg ∈ currentSegs s := List.mem_of_getElem? h
  rcases elemSegs_cases s.config.tritWave s.latch s.pos.tel s.pos.elem with hs | ⟨x, hs⟩ | hs
  · have hsync : ∀ sg ∈ sync, sg.2 ≤ 31 := by decide
    rw [currentSegs, hs] at hmem
    exact hsync sg hmem
  · rw [currentSegs, hs] at hmem
    exact (segsValid_le (tritSegs_valid hw x) hmem).trans (by decide)
  · omega

/-- NTEL is 1 or 2 (10_state.md R25). -/
theorem telegramCount_range (n : Telegrams) : 1 ≤ telegramCount n ∧ telegramCount n ≤ 2 := by
  cases n <;> decide

/-- An advance keeps TEL naming a telegram of the send (10_state.md R24). -/
theorem advance_tel_lt {s : State} (h : s.pos.tel.toNat < telegramCount s.latch.ntel) :
    (advance s).1.tel.toNat < telegramCount s.latch.ntel := by
  rcases advance_cases s with
    ⟨-, ha⟩ | ⟨-, ⟨-, ha⟩ | ⟨-, ⟨-, ha⟩ | ⟨-, ⟨hnext, ha⟩ | ⟨-, ha⟩⟩⟩⟩ <;> rw [ha]
  case inr.inr.inr.inl =>
    have : (s.pos.tel + 1).toNat = s.pos.tel.toNat + 1 := by
      have := (telegramCount_range s.latch.ntel).2
      bv_omega
    exact this ▸ hnext
  all_goals exact h

end Sys2Proof.Machine
end

section
/-! Reset, and what a single step does to TRACE, PINLVL and the configuration (10_state.md R23, R27, R28, R33). -/

namespace Sys2Proof.Machine

/-- Settles O17: a codec command's result is found from its operands alone. -/
theorem codecCommandsArePure : Obligations.CodecCommandsArePure := by
  intro i hcodec
  rcases exec_idle i with ⟨q, hq⟩ | ⟨hsend, -⟩
  · exact ⟨q, hq⟩
  · rw [hcodec] at hsend
    cases hsend

/-- Settles O47: each of the three sequencer steps emits its one event, and the others none. -/
theorem traceIsAppendOnly : Obligations.TraceIsAppendOnly := by
  intro s t h
  cases step_cases h with
  | waiting hp | responds hp | starts hp => exact ⟨fun _ => rfl, absurd hp⟩
  | write hp | wait hp | final hp => exact ⟨fun hidle => by simp [hp] at hidle, fun _ => ⟨_, rfl⟩⟩

/-- Where the trace grew by a Write and PINLVL by what the Write does, the pin is set and no other
(10_state.md R27). -/
theorem pin_moved_of_write {s t : State} {p : PinId} {l : Level} (htrace : t.trace = s.trace ++ [.write p l])
    (hpins : t.pinlvl = writePin s.pinlvl p l) :
    ∃ p l, t.trace = s.trace ++ [.write p l] ∧ readPin t.pinlvl p = some l ∧
      ∀ q, q ≠ p → readPin t.pinlvl q = readPin s.pinlvl q := by
  refine ⟨p, l, htrace, ?_, fun q hq => ?_⟩
  · rw [hpins, readPin_writePin_same]
  · rw [hpins, readPin_writePin_other _ _ hq]

/-- Settles O48: the WRITE and FINAL steps write the one pin, and the other steps neither write nor emit a
Write. -/
theorem onlyAWriteMovesItsPin : Obligations.OnlyAWriteMovesItsPin := by
  refine ⟨fun s t h => ?_, fun _ _ => rfl, fun _ => rfl⟩
  cases step_cases h with
  | waiting | responds | starts | wait => exact .inl ⟨rfl, by simp⟩
  | write | final => exact .inr (pin_moved_of_write rfl rfl)

/-- Settles O49: no step writes the configuration, so no run does. -/
theorem configurationNeverChanges : Obligations.ConfigurationNeverChanges := by
  intro k s t h
  exact run_keeps (P := fun u => u.config = s.config) (fun _ _ hu hstep => (step_config hstep).trans hu) rfl h

/-- Settles O50: the reset state is idle, and an idle state accepts every command. -/
theorem resetStateIsIdleWithAnEmptyTrace : Obligations.ResetStateIsIdleWithAnEmptyTrace := by
  refine ⟨fun c => ⟨rfl, rfl, fun _ => rfl, fun i => ?_⟩, rfl, rfl, fun _ => rfl⟩
  rcases exec_idle i with ⟨q, hq⟩ | ⟨-, a, ha⟩
  · exact ⟨_, hq _ rfl⟩
  · exact ⟨_, ha _ rfl⟩

end Sys2Proof.Machine
end

section
/-! The invariant (Safety.lean) at reset and under every step. -/

namespace Sys2Proof.Machine

/-- The reset state of a valid configuration meets the invariant: no send is in flight and TRACE is empty. -/
theorem inv_resetOf {c : Config} (hc : c.Valid) : Inv (State.resetOf c) where
  configValid := hc
  inFlight := fun h => absurd rfl h
  pinAtLevel := fun h => by cases h
  pinsFollow := rfl
  pinsCanonical := resetOf_wf hc
  waitsBounded := fun e he => by cases he

/-- Settles O52: for every valid configuration, the default one included. -/
theorem invariantHoldsAtReset : Obligations.InvariantHoldsAtReset :=
  ⟨fun _ hc => inv_resetOf hc, inv_resetOf configDefault_valid⟩

/-- A change that emits nothing keeps the invariant if the sequencer's part of it holds again. -/
theorem inv_of_silent {s t : State} (hs : Inv s) (hconfig : t.config = s.config) (htrace : t.trace = s.trace)
    (hpins : t.pinlvl = s.pinlvl) (hflight : t.phase ≠ .idle → SendInFlight t)
    (hlevel : t.phase = .wait → PinAtSegmentLevel t) : Inv t where
  configValid := hconfig ▸ hs.configValid
  inFlight := hflight
  pinAtLevel := hlevel
  pinsFollow := by rw [PinsFollowTrace, hconfig, htrace, hpins]; exact hs.pinsFollow
  pinsCanonical := hpins ▸ hs.pinsCanonical
  waitsBounded := by rw [WaitsBounded, htrace]; exact hs.waitsBounded

/-- Emitting an event that waits no longer than the bound keeps PINLVL following TRACE (10_state.md R27) and
the Waits in their bound (70_reset_and_hazards.md R171), so it keeps the invariant if the sequencer's part of it
holds again. -/
theorem inv_of_emit {s t : State} {e : Event} (hs : Inv s) (he : waitOf e ≤ maxWait)
    (hconfig : t.config = s.config) (htrace : t.trace = s.trace ++ [e]) (hpins : t.pinlvl = pinAfter s.pinlvl e)
    (hflight : t.phase ≠ .idle → SendInFlight t) (hlevel : t.phase = .wait → PinAtSegmentLevel t) : Inv t where
  configValid := hconfig ▸ hs.configValid
  inFlight := hflight
  pinAtLevel := hlevel
  pinsFollow := by
    have hfollow : s.pinlvl = s.trace.foldl pinAfter s.config.pinInit := hs.pinsFollow
    rw [PinsFollowTrace, hconfig, htrace, hpins, List.foldl_append, ← hfollow]
    rfl
  pinsCanonical := hpins ▸ pinAfter_wf e hs.pinsCanonical
  waitsBounded := by
    intro x hx
    rw [htrace, List.mem_append, List.mem_singleton] at hx
    rcases hx with hx | rfl
    · exact hs.waitsBounded x hx
    · exact he

/-- RUN starts at the first segment of the sync, which every send has (41_transmitter.md R110). -/
theorem startRun_inFlight (a : RunArgs) (s : State) : SendInFlight (startRun a s) :=
  ⟨⟨Nat.zero_le _, Nat.zero_lt_succ _, (repeats_range _).1, (telegramCount_range _).1⟩, rfl,
    fun h => by cases h⟩

/-- A Wait keeps the position in range: the counter that moves had room, and the ones inside it return to 0,
where every element has a segment (41_transmitter.md R112, 10_state.md R24). -/
theorem positionInRange_advance {s t : State} (hvalid : s.config.Valid) (hs : PositionInRange s)
    (hpos : t.pos = (advance s).1) (hlatch : t.latch = s.latch) (hconfig : t.config = s.config) :
    PositionInRange t := by
  obtain ⟨helem, hseg, hrep, htel⟩ := hs
  have htel' := advance_tel_lt htel
  have hlen : ∀ p : Position, p.elem.toNat ≤ 12 →
      0 < (elemSegs s.config.tritWave s.latch p.tel p.elem).length ∧
        (elemSegs s.config.tritWave s.latch p.tel p.elem).length ≤ 6 :=
    fun p hp => elemSegs_length hvalid.1 s.latch p.tel hp
  rw [PositionInRange, currentSegs, hpos, hlatch, hconfig]
  rcases advance_cases s with
    ⟨hmore, ha⟩ | ⟨-, ⟨hmore, ha⟩ | ⟨-, ⟨hmore, ha⟩ | ⟨-, ⟨-, ha⟩ | ⟨-, ha⟩⟩⟩⟩ <;> rw [ha] at htel' ⊢
  · have hsucc : (s.pos.seg + 1).toNat = s.pos.seg.toNat + 1 := by
      have : (currentSegs s).length ≤ 6 := (hlen s.pos helem).2
      bv_omega
    exact ⟨helem, hsucc ▸ hmore, hrep, htel'⟩
  · have hsucc : (s.pos.elem + 1).toNat = s.pos.elem.toNat + 1 := by bv_omega
    have helem' : (s.pos.elem + 1).toNat ≤ 12 := by omega
    exact ⟨helem', (hlen { s.pos with elem := s.pos.elem + 1 } helem').1, hrep, htel'⟩
  · have hsucc : (s.pos.rep + 1).toNat = s.pos.rep.toNat + 1 := by
      have := (repeats_range s.latch.replog).2
      bv_omega
    exact ⟨Nat.zero_le _, Nat.zero_lt_succ _, hsucc ▸ hmore, htel'⟩
  · exact ⟨Nat.zero_le _, Nat.zero_lt_succ _, (repeats_range _).1, htel'⟩
  · exact ⟨helem, hseg, hrep, htel'⟩

/-- An advance that goes to FINAL leaves the position, which is at the end of the send (41_transmitter.md
R112). -/
theorem positionAtEnd_of_advance_final {s : State} (hs : PositionInRange s) (hfinal : (advance s).2 = .final) :
    (advance s).1 = s.pos ∧ PositionAtEnd s := by
  obtain ⟨helem, hseg, hrep, htel⟩ := hs
  rcases advance_cases s with
    ⟨-, ha⟩ | ⟨hlast, ⟨-, ha⟩ | ⟨hlastElem, ⟨-, ha⟩ | ⟨hlastRep, ⟨-, ha⟩ | ⟨hlastTel, ha⟩⟩⟩⟩
  case inr.inr.inr.inr =>
    exact ⟨by rw [ha], by bv_omega, by omega, by omega, by omega⟩
  all_goals rw [ha] at hfinal; cases hfinal

/-- A WAIT step leaves the send in flight, at FINAL only after the last segment. -/
theorem sendInFlight_advance {s t : State} (hvalid : s.config.Valid) (hs : SendInFlight s)
    (hpos : t.pos = (advance s).1) (hphase : t.phase = (advance s).2) (hlatch : t.latch = s.latch)
    (hconfig : t.config = s.config) (hresponse : t.response = s.response) : SendInFlight t := by
  obtain ⟨hrange, hnone, -⟩ := hs
  refine ⟨positionInRange_advance hvalid hrange hpos hlatch hconfig, hresponse.trans hnone, fun hfinal => ?_⟩
  obtain ⟨hsame, hend⟩ := positionAtEnd_of_advance_final hrange (hphase.symm.trans hfinal)
  rw [PositionAtEnd, currentSegs, hpos, hsame, hlatch, hconfig]
  exact hend

/-- The longest segment at the longest period waits `maxWait`. -/
theorem currentSeg_wait_le {s : State} {sg : Seg} (hw : s.config.tritWave.Valid) (he : s.pos.elem.toNat ≤ 12)
    (h : currentSeg s = some sg) : sg.2 * s.latch.period.toNat ≤ maxWait :=
  Nat.mul_le_mul (currentSeg_periods_le hw he h) (by omega)

/-- Settles O53: the commands emit nothing and RUN starts in range; WRITE sets the pin to the segment's level;
WAIT advances in range and waits within the bound; FINAL ends the send. -/
theorem everyStepKeepsTheInvariant : Obligations.EveryStepKeepsTheInvariant := by
  intro s t hs h
  cases step_cases h with
  | waiting => exact hs
  | responds hp => exact inv_of_silent hs rfl rfl rfl (absurd hp) fun h => by simp [hp] at h
  | starts hp c rest hi a =>
    exact inv_of_silent hs rfl rfl rfl (fun _ => startRun_inFlight a _) fun h => by cases h
  | write hp sg hseg =>
    obtain ⟨hrange, hnone, -⟩ := hs.inFlight (by simp [hp])
    exact inv_of_emit hs (Nat.zero_le _) rfl rfl rfl
      (fun _ => ⟨hrange, hnone, fun h => by cases h⟩)
      (fun _ => ⟨sg, hseg, readPin_writePin_same _ _ _⟩)
  | wait hp sg hseg =>
    have hflight : SendInFlight s := hs.inFlight (by simp [hp])
    refine inv_of_emit (e := .wait _) hs (currentSeg_wait_le hs.configValid.1 hflight.1.1 hseg) rfl rfl rfl
      (fun _ => sendInFlight_advance hs.configValid hflight rfl rfl rfl rfl rfl) (fun hwait => ?_)
    rcases advance_phase s with ha | ha <;> cases ha.symm.trans hwait
  | final hp =>
    exact inv_of_emit hs (Nat.zero_le _) rfl rfl rfl (fun h => absurd rfl h) fun h => by cases h

end Sys2Proof.Machine
end

section
/-! What a send in flight reads of the position registers and latches, and that an idle block reads none of
them (10_state.md R24, R25, R33). -/

namespace Sys2Proof.Machine

/-- Two states whose sends cannot be told apart: the same position and latches, but for the body of a telegram
the send does not have (BODY[1] when NTEL is 1, log 18). -/
structure SameSend (s t : State) : Prop where
  pos : s.pos = t.pos
  pin : s.latch.pin = t.latch.pin
  period : s.latch.period = t.latch.period
  replog : s.latch.replog = t.latch.replog
  ntel : s.latch.ntel = t.latch.ntel
  body : ∀ tel : BitVec 1, tel.toNat < telegramCount s.latch.ntel → bodyAt s.latch tel = bodyAt t.latch tel
  telInRange : s.pos.tel.toNat < telegramCount s.latch.ntel

/-- Two states that agree on all that is read: in IDLE nothing of the sequencer, else the send. -/
structure SameWhereRead (s t : State) : Prop where
  visible : SameButUnread s t
  send : s.phase ≠ .idle → SameSend s t

/-- Sends that cannot be told apart are at the same element. -/
theorem SameSend.currentSegs_eq {s t : State} (h : SameSend s t) (hconfig : s.config = t.config) :
    currentSegs s = currentSegs t := by
  have hbody := h.body s.pos.tel h.telInRange
  rw [h.pos] at hbody
  simp only [currentSegs, elemSegs, hconfig, h.pos, hbody]

/-- Sends that cannot be told apart are at the same segment. -/
theorem SameSend.currentSeg_eq {s t : State} (h : SameSend s t) (hconfig : s.config = t.config) :
    currentSeg s = currentSeg t := by
  rw [currentSeg, currentSeg, h.currentSegs_eq hconfig, h.pos]

/-- Sends that cannot be told apart advance alike. -/
theorem SameSend.advance_eq {s t : State} (h : SameSend s t) (hconfig : s.config = t.config) :
    advance s = advance t := by
  simp only [advance, h.currentSegs_eq hconfig, h.pos, h.replog, h.ntel]

/-- Sends that cannot be told apart stay so when both positions advance. -/
theorem SameSend.after_advance {s t s' t' : State} (h : SameSend s t) (hconfig : s.config = t.config)
    (hs : s'.pos = (advance s).1) (ht : t'.pos = (advance t).1) (hsl : s'.latch = s.latch)
    (htl : t'.latch = t.latch) : SameSend s' t' where
  pos := by rw [hs, ht, h.advance_eq hconfig]
  pin := by rw [hsl, htl, h.pin]
  period := by rw [hsl, htl, h.period]
  replog := by rw [hsl, htl, h.replog]
  ntel := by rw [hsl, htl, h.ntel]
  body := by rw [hsl, htl]; exact h.body
  telInRange := by rw [hs, hsl]; exact advance_tel_lt h.telInRange

/-- RUN latches all that its send reads, so what the latches held before does not matter (41_transmitter.md
R110). -/
theorem sameSend_startRun (a : RunArgs) (s t : State) : SameSend (startRun a s) (startRun a t) where
  pos := rfl
  pin := rfl
  period := rfl
  replog := rfl
  ntel := rfl
  body := by
    intro tel htel
    cases hb : a.bodyB with
    | some b => simp [bodyAt, hb]
    | none =>
      have h0 : tel = 0 := by
        simp only [startRun_ntel, hb] at htel
        exact BitVec.eq_of_toNat_eq (Nat.lt_one_iff.1 htel)
      simp [bodyAt, h0]
  telInRange := (telegramCount_range _).1

/-- Two idle states that agree on all that is read serve the same command, with the same outcome. -/
theorem step_idle_sameWhereRead {s t s' : State} (hvisible : SameButUnread s t) (hidle : s.phase = .idle)
    (hstep : step s = .next s') : ∃ t', step t = .next t' ∧ SameWhereRead s' t' := by
  have ⟨hphase, hpins, htrace, hconfig, hinbox, _⟩ := hvisible
  have hidle' : t.phase = .idle := hphase ▸ hidle
  cases hi : s.inbox with
  | nil =>
    rw [step_idle_nil hidle hi] at hstep
    cases hstep
    exact ⟨t, step_idle_nil hidle' (hinbox ▸ hi), hvisible, absurd hidle⟩
  | cons c rest =>
    rw [step_idle_cons hidle hi] at hstep
    rw [step_idle_cons hidle' (hinbox ▸ hi)]
    rcases serve_idle c with ⟨q, hq⟩ | ⟨a, ha⟩ | hmalformed
    · rw [hq { s with inbox := rest } hidle] at hstep
      cases hstep
      exact ⟨_, hq _ hidle', ⟨hphase, hpins, htrace, hconfig, rfl, rfl⟩, absurd hidle⟩
    · rw [ha { s with inbox := rest } hidle] at hstep
      cases hstep
      exact ⟨_, ha _ hidle', ⟨rfl, hpins, htrace, hconfig, rfl, rfl⟩, fun _ => sameSend_startRun a _ _⟩
    · rw [hmalformed] at hstep
      cases hstep

/-- States that agree on all that is read step alike. -/
theorem step_sameWhereRead {s t s' : State} (h : SameWhereRead s t) (hstep : step s = .next s') :
    ∃ t', step t = .next t' ∧ SameWhereRead s' t' := by
  by_cases hidle : s.phase = .idle
  · exact step_idle_sameWhereRead h.visible hidle hstep
  obtain ⟨hphase, hpins, htrace, hconfig, hinbox, hresponse⟩ := h.visible
  have hsend : SameSend s t := h.send hidle
  cases step_cases hstep with
  | waiting hp | responds hp | starts hp => exact absurd hp hidle
  | write hp sg hseg =>
    refine ⟨_, step_write (hphase ▸ hp) (hsend.currentSeg_eq hconfig ▸ hseg),
      ⟨rfl, ?_, ?_, hconfig, hinbox, hresponse⟩,
      fun _ => ⟨hsend.pos, hsend.pin, hsend.period, hsend.replog, hsend.ntel, hsend.body, hsend.telInRange⟩⟩
    · simp [hpins, hsend.pin]
    · simp [htrace, hsend.pin]
  | wait hp sg hseg =>
    refine ⟨_, step_wait (hphase ▸ hp) (hsend.currentSeg_eq hconfig ▸ hseg),
      ⟨?_, hpins, ?_, hconfig, hinbox, hresponse⟩,
      fun _ => hsend.after_advance hconfig rfl rfl rfl rfl⟩
    · exact congrArg Prod.snd (hsend.advance_eq hconfig)
    · simp [htrace, hsend.period]
  | final hp =>
    refine ⟨_, step_final (hphase ▸ hp), ⟨rfl, ?_, ?_, hconfig, hinbox, rfl⟩, fun h => absurd rfl h⟩
    · simp [hpins, hsend.pin]
    · simp [htrace, hsend.pin]

/-- States that agree on all that is read run alike. -/
theorem run_sameWhereRead {k : Nat} {s t s' : State} (h : SameWhereRead s t) (hrun : run k s = .next s') :
    ∃ t', run k t = .next t' ∧ SameWhereRead s' t' := by
  induction k generalizing s t with
  | zero =>
    cases hrun
    exact ⟨t, rfl, h⟩
  | succ k ih =>
    obtain ⟨u, hu, hrest⟩ := run_succ_cases hrun
    obtain ⟨v, hv, huv⟩ := step_sameWhereRead h hu
    rw [run_succ hv]
    exact ih huv hrest

/-- Settles O55: idle states agree on all that is read as soon as they agree on what the host can see, and
runs keep that. -/
theorem idleRegistersAreNeverRead : Obligations.IdleRegistersAreNeverRead := by
  intro k s t s' hidle hvisible hrun
  obtain ⟨t', ht', hsame⟩ := run_sameWhereRead ⟨hvisible, absurd hidle⟩ hrun
  exact ⟨t', ht', hsame.visible⟩

end Sys2Proof.Machine
end

section
/-! The order in which commands are served, and that a command does nothing to its surroundings before its first
event (10_state.md R30, 20_memory.md R46, R47). -/

namespace Sys2Proof.Machine

/-- A command that goes on has returned with nothing else changed, or is a send command that started RUN. -/
theorem exec_next {i : Instr} {s t : State} (h : exec i s = .next t) :
    (∃ q, t = respond q s) ∨ (isCodec i = false ∧ ∃ a, t = startRun a s) := by
  obtain ⟨hidle, -⟩ := exec_cases h
  rcases exec_idle i with ⟨q, hq⟩ | ⟨hsend, a, ha⟩
  · cases (hq s hidle).symm.trans h
    exact .inl ⟨q, rfl⟩
  · cases (ha s hidle).symm.trans h
    exact .inr ⟨hsend, a, rfl⟩

/-- While a send is in flight no command leaves the inbox (20_memory.md R47). -/
theorem step_busy_inbox {s t : State} (hbusy : s.phase ≠ .idle) (h : step s = .next t) : t.inbox = s.inbox := by
  cases step_cases h with
  | waiting hp | responds hp | starts hp => exact absurd hp hbusy
  | write | wait | final => rfl

/-- Settles O42: a return writes the response only, and RUN's start, which no codec command reaches, writes the
sequencer's registers and the response. -/
theorem noCommandActsBeforeItsFirstEvent : Obligations.NoCommandActsBeforeItsFirstEvent := by
  intro i s t h
  rcases exec_next h with ⟨q, rfl⟩ | ⟨hsend, a, rfl⟩
  · exact ⟨rfl, rfl, fun _ => rfl, rfl, rfl, rfl, fun _ => ⟨rfl, rfl, rfl⟩⟩
  · exact ⟨rfl, rfl, fun _ => rfl, rfl, rfl, rfl, fun hcodec => by simp [hsend] at hcodec⟩

/-- Settles O46: only an idle step takes a command, and serving it either returns or starts RUN. -/
theorem commandsAreServedOneAtATime : Obligations.CommandsAreServedOneAtATime := by
  intro s t h
  refine ⟨fun hbusy => step_busy_inbox hbusy h, fun hidle hnil => ?_, fun hidle c rest hcons => ?_⟩
  · rw [step_idle_nil hidle hnil] at h
    cases h
    rfl
  · rw [step_idle_cons hidle hcons] at h
    obtain ⟨-, ⟨a, rfl⟩ | ⟨q, rfl⟩⟩ := serve_cases h
    · exact ⟨rfl, rfl, .inr ⟨rfl, rfl⟩⟩
    · exact ⟨rfl, rfl, .inl ⟨hidle, by simp⟩⟩

end Sys2Proof.Machine
end

section
/-! The selector decoder and the step that runs what it reads (30_encoding.md R68, R69, R71). -/

namespace Sys2Proof.Machine

/-- OP 0b110 and 0b111 (30_encoding.md R69). -/
def ReservedSelector (op : Selector) : Prop := op = 0b110#3 ∨ op = 0b111#3

/-- Decoding undoes encoding. -/
@[simp] theorem decode_encode (i : Instr) : decode (encode i) = .instr i := by
  cases i <;> rfl

/-- A reserved selector is found whatever the operands are (30_encoding.md R69). -/
theorem decode_reserved {op : Selector} (hop : ReservedSelector op) (operands : List Operand) :
    decode ⟨op, operands⟩ = .reservedOp op := by
  rcases hop with rfl | rfl <;> rfl

/-- The 8 selector values. -/
theorem selector_cases (op : Selector) :
    op = 0b000#3 ∨ op = 0b001#3 ∨ op = 0b010#3 ∨ op = 0b011#3 ∨ op = 0b100#3 ∨ op = 0b101#3 ∨
      ReservedSelector op := by
  unfold ReservedSelector
  revert op
  decide

/-- All that the decoder can answer: a command is some instruction's, or it has a reserved selector, or its
operands are of no format. -/
theorem decode_cases (c : Command) :
    (∃ i, c = encode i) ∨ ReservedSelector c.op ∨ decode c = .malformedOperands c.op := by
  obtain ⟨op, operands⟩ := c
  rcases selector_cases op with rfl | rfl | rfl | rfl | rfl | rfl | hreserved
  case inr.inr.inr.inr.inr.inr => exact .inr (.inl hreserved)
  all_goals simp only [decode]; split
  any_goals exact .inr (.inr rfl)
  · exact .inl ⟨.pack _ _ _, rfl⟩
  · exact .inl ⟨.unpack _, rfl⟩
  · exact .inl ⟨.sameCode _ _, rfl⟩
  · exact .inl ⟨.sendPacked _ _, rfl⟩
  · exact .inl ⟨.sendTrits _ _ _ _, rfl⟩
  · exact .inl ⟨.sendPair _ _ _ _ _, rfl⟩

/-- A command decodes to an instruction exactly when it is that instruction's (30_encoding.md R71). -/
theorem decode_eq_instr_iff (c : Command) (i : Instr) : decode c = .instr i ↔ c = encode i := by
  refine ⟨fun h => ?_, fun h => h ▸ decode_encode i⟩
  rcases decode_cases c with ⟨j, rfl⟩ | hreserved | hmalformed
  · obtain rfl := Decoded.instr.inj ((decode_encode j).symm.trans h)
    rfl
  · cases (decode_reserved hreserved c.operands).symm.trans h
  · cases hmalformed.symm.trans h

theorem decode_eq_reservedOp_iff (c : Command) (op : Selector) :
    decode c = .reservedOp op ↔ op = c.op ∧ ReservedSelector c.op := by
  refine ⟨fun h => ?_, fun ⟨hop, hreserved⟩ => hop ▸ decode_reserved hreserved c.operands⟩
  rcases decode_cases c with ⟨i, rfl⟩ | hreserved | hmalformed
  · cases (decode_encode i).symm.trans h
  · cases (decode_reserved hreserved c.operands).symm.trans h
    exact ⟨rfl, hreserved⟩
  · cases hmalformed.symm.trans h

/-- A selector that is not reserved is that of a row (30_encoding.md R68). -/
theorem exists_encode_op {op : Selector} (hop : ¬ ReservedSelector op) : ∃ i, (encode i).op = op := by
  rcases selector_cases op with rfl | rfl | rfl | rfl | rfl | rfl | hreserved
  · exact ⟨.pack [] 0 0, rfl⟩
  · exact ⟨.unpack 0, rfl⟩
  · exact ⟨.sameCode 0 0, rfl⟩
  · exact ⟨.sendPacked 0 ⟨0⟩, rfl⟩
  · exact ⟨.sendTrits [] 0 0 ⟨0⟩, rfl⟩
  · exact ⟨.sendPair 0 0 0 0 ⟨0⟩, rfl⟩
  · exact absurd hreserved hop

/-- A command with a reserved selector is rejected and changes nothing else (30_encoding.md R69). -/
theorem serve_reserved {op : Selector} (hop : ReservedSelector op) (operands : List Operand) {s : State}
    (hidle : s.phase = .idle) :
    serve ⟨op, operands⟩ s = .next { s with response := some (.rejected .opReserved) } := by
  simp only [serve, decode_reserved hop, execReserved]
  exact accept_idle _ hidle

/-- Serving a command that decodes to an instruction runs it. -/
theorem serve_instr {c : Command} {i : Instr} (hc : decode c = .instr i) (s : State) : serve c s = exec i s := by
  simp [serve, hc]

theorem serve_malformed {c : Command} {op : Selector} (hc : decode c = .malformedOperands op) (s : State) :
    serve c s = .refused .malformedOperands := by
  simp [serve, hc]

/-- A table word is read as the instruction its command decodes to. -/
theorem decodeTableWord_eq_some_iff (nbits w : Nat) (i : Instr) :
    decodeTableWord nbits w = some i ↔ decode (commandOfTableWord nbits w) = .instr i := by
  unfold decodeTableWord
  cases decode (commandOfTableWord nbits w) <;> simp

/-- Settles O1: each of the six is the encoding of its instruction. -/
theorem selectorNamesItsOperation : Obligations.SelectorNamesItsOperation := by
  intro t p r pa pb w a b q
  exact ⟨decode_encode (.pack t p r), decode_encode (.unpack w), decode_encode (.sameCode a b),
    decode_encode (.sendPacked w q), decode_encode (.sendTrits t p r q), decode_encode (.sendPair pa pb p r q)⟩

/-- Settles O2: the decoder finds the selector before it looks at the operands. -/
theorem reservedSelectorIsRejectedUnread : Obligations.ReservedSelectorIsRejectedUnread := by
  intro op operands s hop hidle
  exact ⟨serve_reserved hop operands hidle, rfl⟩

/-- Settles O3, by the three things the decoder can answer. -/
theorem decodeExactlyInvertsEncode : Obligations.DecodeExactlyInvertsEncode := by
  refine ⟨decode_eq_instr_iff, fun c => ?_, fun op => ?_⟩
  · rw [decode_eq_reservedOp_iff, ReservedSelector, and_iff_right rfl]
  · exact or_iff_not_imp_left.2 exists_encode_op

/-- Settles O5: each table word's command is the encoding of its row with operands of zeros. -/
theorem tableWordsDecodeToTheirRows : Obligations.TableWordsDecodeToTheirRows := by
  have hrow : ∀ {w i}, commandOfTableWord 8 w = encode i → decodeTableWord 8 w = some i := fun h =>
    (decodeTableWord_eq_some_iff _ _ _).2 (h ▸ decode_encode _)
  exact ⟨hrow rfl, hrow rfl, hrow rfl, hrow rfl, hrow rfl, hrow rfl, rfl, rfl⟩

/-- Settles O44: the three answers of the decoder are the three ways a command is served. -/
theorem stepRunsTheDecodedCommand : Obligations.StepRunsTheDecodedCommand := by
  intro s c rest hidle hinbox
  rw [step_idle_cons hidle hinbox]
  refine ⟨fun i hc => serve_instr hc _, fun op hc => ?_, fun op hc => serve_malformed hc _⟩
  exact serve_reserved ((decode_eq_reservedOp_iff c op).1 hc).2 c.operands hidle

/-- Settles O45: the word's command is the first of the inbox, and taking it leaves the inbox as it was. -/
theorem fetchedTableWordRunsNext : Obligations.FetchedTableWordRunsNext := by
  intro s nbits w i hw
  have hc : decode (commandOfTableWord nbits w) = .instr i := (decodeTableWord_eq_some_iff nbits w i).1 hw
  rw [step_idle_cons (withFetchWord_phase s nbits w) (withFetchWord_inbox s nbits w), serve_instr hc]
  rfl

end Sys2Proof.Machine
end

section
/-! Command lines (30_encoding.md R72): the disassembler's line, read back field by field. -/

namespace Sys2Proof.Machine

/-! ### Numbers -/

@[simp] theorem decDigit_ofNat {d : Nat} (hd : d < 10) : decDigit (Char.ofNat (48 + d)) = some d := by
  interval_cases d <;> decide

/-- Reading a number's digits leaves its value to go on from. Any fuel above the number is
enough for all of them. -/
theorem digitsValue_natDigits (fuel n : Nat) (rest : List Char) (hn : n < fuel) :
    digitsValue 10 decDigit 0 (natDigits fuel n rest) = digitsValue 10 decDigit n rest := by
  induction fuel generalizing n rest with
  | zero => omega
  | succ fuel ih =>
    by_cases hsmall : n < 10
    · simp [natDigits, digitsValue, hsmall]
    · have hdigit : n % 10 < 10 := Nat.mod_lt _ (by decide)
      have hvalue : n / 10 * 10 + n % 10 = n := Nat.div_add_mod' n 10
      simp [natDigits, hsmall, ih (n / 10) _ (by omega), digitsValue, hdigit, hvalue]

@[simp] theorem digitsValue_renderNat (n : Nat) : digitsValue 10 decDigit 0 (renderNat n) = some n :=
  digitsValue_natDigits (n + 1) n [] (Nat.lt_succ_self n)

/-- The digits are put before `acc`, and nothing else is. -/
theorem natDigits_forall {P : Char → Prop} (hdigit : ∀ d < 10, P (Char.ofNat (48 + d))) (fuel n : Nat)
    (acc : List Char) (hacc : ∀ c ∈ acc, P c) : ∀ c ∈ natDigits fuel n acc, P c := by
  induction fuel generalizing n acc with
  | zero => exact hacc
  | succ fuel ih =>
    unfold natDigits
    split
    · exact List.forall_mem_cons.2 ⟨hdigit n ‹_›, hacc⟩
    · exact ih _ _ (List.forall_mem_cons.2 ⟨hdigit _ (Nat.mod_lt _ (by decide)), hacc⟩)

/-- What holds of the ten digits holds of every character of a number. -/
theorem renderNat_forall {P : Char → Prop} (hdigit : ∀ d < 10, P (Char.ofNat (48 + d))) (n : Nat) :
    ∀ c ∈ renderNat n, P c :=
  natDigits_forall hdigit _ _ _ (by simp)

theorem renderNat_ne_nil (n : Nat) : renderNat n ≠ [] := by
  intro hnil
  have hvalue : digitsValue 10 decDigit 0 [] = some n := hnil ▸ digitsValue_renderNat n
  obtain rfl := Option.some.inj hvalue
  cases hnil

/-- Text with no `x` in it is never read as hexadecimal. -/
theorem parseNat_of_digits {l : List Char} (hne : l ≠ []) (hx : 'x' ∉ l) :
    parseNat l = digitsValue 10 decDigit 0 l := by
  unfold parseNat
  split
  · exact absurd rfl hne
  · simp at hx
  · rfl

@[simp] theorem parseNat_renderNat (n : Nat) : parseNat (renderNat n) = some n := by
  have hx : 'x' ∉ renderNat n := fun hmem => renderNat_forall (P := (· ≠ 'x')) (by decide) n 'x' hmem rfl
  rw [parseNat_of_digits (renderNat_ne_nil n) hx, digitsValue_renderNat]

/-! ### Operands -/

@[simp] theorem parseWord_renderNat (w : Word32) : parseWord (renderNat w.toNat) = some w := by
  simp [parseWord, w.isLt]

@[simp] theorem parsePin_renderNat (p : PinId) : parsePin ('p' :: renderNat p.index) = some p := by
  obtain ⟨c, cs, hcons⟩ := List.exists_cons_of_ne_nil (renderNat_ne_nil p.index)
  have hvalue := digitsValue_renderNat p.index
  rw [hcons] at hvalue ⊢
  simp [parsePin, hvalue]

@[simp] theorem tritOfLetter_letterOfTrit (x : Trit) : tritOfLetter (letterOfTrit x) = some x := by
  cases x <;> decide

@[simp] theorem parseTritLetters_map (t : List Trit) :
    parseTritLetters (t.map letterOfTrit ++ [']']) = some t := by
  induction t with
  | nil => rfl
  | cons x xs ih =>
    have hrest : xs.map letterOfTrit ++ [']'] ≠ [] := by simp
    simp [parseTritLetters, ih]

/-- The kind of an operand (30_encoding.md R70). -/
def operandKind : Operand → OperandKind
  | .trits _ => .trits
  | .nat _ => .nat
  | .word _ => .word
  | .pin _ => .pin

@[simp] theorem parseOperand_renderOperand (o : Operand) :
    parseOperand (operandKind o) (renderOperand o) = some o := by
  cases o with
  | trits | nat | word | pin => simp [operandKind, renderOperand, parseOperand, parseTrits]

theorem parseOperands_renderOperand (os : List Operand) :
    parseOperands (os.map operandKind) (os.map renderOperand) = some os := by
  induction os with
  | nil => rfl
  | cons o os ih => simp [parseOperands, ih]

/-! ### Fields -/

/-- A character that ends no field: no blank, no comma and no start of a comment. -/
def isFieldChar (c : Char) : Bool := !isBlank c && c != ',' && c != ';'

theorem isBlank_of_isFieldChar {c : Char} (h : isFieldChar c = true) : isBlank c = false := by
  simp only [isFieldChar, Bool.and_eq_true, Bool.not_eq_true'] at h
  obtain ⟨⟨hblank, -⟩, -⟩ := h
  exact hblank

theorem comma_not_mem_field {f : List Char} (hf : ∀ c ∈ f, isFieldChar c = true) : ',' ∉ f := fun hmem =>
  absurd (hf ',' hmem) (by decide)

theorem comment_not_mem_field {f : List Char} (hf : ∀ c ∈ f, isFieldChar c = true) : ';' ∉ f := fun hmem =>
  absurd (hf ';' hmem) (by decide)

theorem renderOperand_isFieldChar (o : Operand) : ∀ c ∈ renderOperand o, isFieldChar c = true := by
  have hnumber : ∀ n, ∀ c ∈ renderNat n, isFieldChar c = true := renderNat_forall (by decide)
  have hletter : ∀ x, isFieldChar (letterOfTrit x) = true := fun x => by cases x <;> decide
  cases o with
  | trits t =>
    have hletters : ∀ c ∈ t.map letterOfTrit, isFieldChar c = true := List.forall_mem_map.2 fun x _ => hletter x
    exact List.forall_mem_cons.2 ⟨by decide, List.forall_mem_append.2
      ⟨hletters, List.forall_mem_singleton.2 (by decide)⟩⟩
  | nat n => exact hnumber n
  | word w => exact hnumber w.toNat
  | pin p => exact List.forall_mem_cons.2 ⟨by decide, hnumber p.index⟩

theorem renderOperand_ne_nil (o : Operand) : renderOperand o ≠ [] := by
  cases o with
  | trits t => exact List.cons_ne_nil _ _
  | nat n => exact renderNat_ne_nil n
  | word w => exact renderNat_ne_nil w.toNat
  | pin p => exact List.cons_ne_nil _ _

theorem mnemonic_isFieldChar (i : Instr) : ∀ c ∈ mnemonic i, isFieldChar c = true := by
  have hall : (mnemonic i).all isFieldChar = true := by cases i <;> rfl
  exact List.all_eq_true.1 hall

theorem mnemonic_ne_nil (i : Instr) : mnemonic i ≠ [] := by
  cases i <;> exact List.cons_ne_nil _ _

/-- Text that neither begins nor ends with a blank is left as it is. -/
theorem trim_of_ends {l : List Char} (hfirst : ∀ c ∈ l.head?, isBlank c = false)
    (hlast : ∀ c ∈ l.getLast?, isBlank c = false) : trim l = l := by
  have hfront : ∀ m : List Char, (∀ c ∈ m.head?, isBlank c = false) → m.dropWhile isBlank = m := by
    intro m hm
    cases m with
    | nil => rfl
    | cons c cs => simp [hm c rfl]
  rw [trim, hfront l hfirst, hfront l.reverse (by simpa using hlast), List.reverse_reverse]

/-- The blank before a field is dropped. -/
theorem trim_blank_field {f : List Char} (hf : ∀ c ∈ f, isFieldChar c = true) : trim (' ' :: f) = f := by
  have hblank : ∀ c ∈ f, isBlank c = false := fun c hc => isBlank_of_isFieldChar (hf c hc)
  have hdrop : trim (' ' :: f) = trim f := rfl
  rw [hdrop]
  exact trim_of_ends (fun c hc => hblank c (List.mem_of_mem_head? hc))
    (fun c hc => hblank c (List.mem_of_mem_getLast? hc))

/-- Text without the separator is one field. -/
theorem splitAtChar_of_not_mem {sep : Char} {f : List Char} (hf : sep ∉ f) : splitAtChar sep f = [f] := by
  induction f with
  | nil => rfl
  | cons c cs ih =>
    obtain ⟨hc, hcs⟩ := not_or.1 (mt List.mem_cons.2 hf)
    simp [splitAtChar, Ne.symm hc, ih hcs]

/-- The first field ends at the first separator. -/
theorem splitAtChar_append_sep {sep : Char} {f : List Char} (hf : sep ∉ f) (rest : List Char) :
    splitAtChar sep (f ++ sep :: rest) = f :: splitAtChar sep rest := by
  induction f with
  | nil => simp [splitAtChar]
  | cons c cs ih =>
    obtain ⟨hc, hcs⟩ := not_or.1 (mt List.mem_cons.2 hf)
    simp [splitAtChar, Ne.symm hc, ih hcs]

theorem renderOperands_cons_cons (o o' : Operand) (os : List Operand) :
    renderOperands (o :: o' :: os) = renderOperand o ++ ',' :: ' ' :: renderOperands (o' :: os) := by
  simp [renderOperands]

/-- The text after the mnemonic splits at its commas into the operands' texts. -/
theorem fields_renderOperands (o : Operand) (os : List Operand) :
    (splitAtChar ',' (' ' :: renderOperands (o :: os))).map trim = (o :: os).map renderOperand := by
  have hcomma : ∀ o, ',' ∉ ' ' :: renderOperand o := by
    intro o hmem
    rcases List.mem_cons.1 hmem with h | h
    · cases h
    · exact comma_not_mem_field (renderOperand_isFieldChar o) h
  have htrim : ∀ o, trim (' ' :: renderOperand o) = renderOperand o := fun o =>
    trim_blank_field (renderOperand_isFieldChar o)
  induction os generalizing o with
  | nil => simp [renderOperands, splitAtChar_of_not_mem (hcomma o), htrim]
  | cons o' os ih =>
    rw [renderOperands_cons_cons, ← List.cons_append, splitAtChar_append_sep (hcomma o), List.map_cons, htrim,
      ih o']
    rfl

/-- The comma and the blank between operands start no comment, and no operand holds one. -/
theorem renderOperands_no_comment (os : List Operand) : ';' ∉ renderOperands os := by
  have hfield : ∀ o, ';' ∉ renderOperand o := fun o =>
    comment_not_mem_field (renderOperand_isFieldChar o)
  induction os with
  | nil => exact List.not_mem_nil
  | cons o os ih =>
    cases os with
    | nil => exact hfield o
    | cons o' os => simp [renderOperands_cons_cons, hfield o, ih]

theorem renderOperands_ne_nil (o : Operand) (os : List Operand) : renderOperands (o :: os) ≠ [] := by
  cases os with
  | nil => exact renderOperand_ne_nil o
  | cons o' os => simp [renderOperands_cons_cons]

/-- The text ends with the last operand's own last character, which is no blank. -/
theorem renderOperands_getLast? (o : Operand) (os : List Operand) :
    ∀ c ∈ (renderOperands (o :: os)).getLast?, isBlank c = false := by
  induction os generalizing o with
  | nil => exact fun c hc =>
      isBlank_of_isFieldChar (renderOperand_isFieldChar o c (List.mem_of_mem_getLast? hc))
  | cons o' os ih =>
    rw [renderOperands_cons_cons, List.append_cons, List.append_cons,
      List.getLast?_append_of_ne_nil _ (renderOperands_ne_nil o' os)]
    exact ih o'

/-! ### Lines -/

theorem mnemonicFormat_mnemonic (i : Instr) :
    mnemonicFormat (mnemonic i) = some ((encode i).op, (encode i).operands.map operandKind) := by
  cases i <;> rfl

/-- Every command has an operand (30_encoding.md R70). -/
theorem exists_operands_cons (i : Instr) : ∃ o os, (encode i).operands = o :: os := by
  cases i <;> exact ⟨_, _, rfl⟩

theorem disassemble_eq (i : Instr) :
    disassemble i = mnemonic i ++ ' ' :: renderOperands (encode i).operands := by
  simp [disassemble]

/-- The line has no comment and no blank at either end. -/
theorem uncomment_disassemble (i : Instr) : uncomment (disassemble i) = disassemble i := by
  have hmem : ';' ∉ disassemble i := by
    rw [disassemble_eq, List.mem_append, List.mem_cons]
    rintro (h | h | h)
    · exact comment_not_mem_field (mnemonic_isFieldChar i) h
    · cases h
    · exact renderOperands_no_comment _ h
  have hnocomment : ∀ c ∈ disassemble i, (c != ';') = true := by
    refine fun c hc => bne_iff_ne.2 ?_
    rintro rfl
    exact hmem hc
  rw [uncomment, List.takeWhile_eq_self_iff.2 hnocomment]
  refine trim_of_ends (fun c hc => ?_) (fun c hc => ?_)
  · rw [disassemble_eq, List.head?_append_of_ne_nil _ (mnemonic_ne_nil i)] at hc
    exact isBlank_of_isFieldChar (mnemonic_isFieldChar i c (List.mem_of_mem_head? hc))
  · obtain ⟨o, os, hoperands⟩ := exists_operands_cons i
    rw [disassemble_eq, hoperands, List.append_cons,
      List.getLast?_append_of_ne_nil _ (renderOperands_ne_nil o os)] at hc
    exact renderOperands_getLast? o os c hc

/-- The line's first blank ends the mnemonic. -/
theorem assembleBare_disassemble (i : Instr) : assembleBare (disassemble i) = some (encode i) := by
  obtain ⟨o, os, hoperands⟩ := exists_operands_cons i
  have hfield : ∀ c ∈ mnemonic i, (!isBlank c) = true := fun c hc => by
    simp [isBlank_of_isFieldChar (mnemonic_isFieldChar i c hc)]
  have htake : (disassemble i).takeWhile (fun c => !isBlank c) = mnemonic i := by
    rw [disassemble_eq, List.takeWhile_append_of_pos hfield]
    exact List.append_nil _
  have hdrop : (disassemble i).dropWhile (fun c => !isBlank c) = ' ' :: renderOperands (encode i).operands := by
    rw [disassemble_eq, List.dropWhile_append_of_pos hfield]
    rfl
  have hparse : parseOperands ((encode i).operands.map operandKind)
      ((splitAtChar ',' (' ' :: renderOperands (encode i).operands)).map trim) = some (encode i).operands := by
    rw [hoperands, fields_renderOperands, parseOperands_renderOperand]
  simp only [assembleBare, htake, mnemonicFormat_mnemonic, hdrop, hparse, Option.map_some]

/-- Settles O4: the line survives the trimming, its first blank ends the mnemonic, its commas split the operands,
and each operand's text reads back as the operand. -/
theorem assemblerReadsBackEveryInstruction : Obligations.AssemblerReadsBackEveryInstruction := by
  intro i
  have hline : assemble (disassemble i) = some (encode i) := by
    rw [assemble, uncomment_disassemble, assembleBare_disassemble]
  exact ⟨hline, decode_encode i⟩

end Sys2Proof.Machine
end

section
/-! The telegram word, the trit codes, the raw region and the replay (30_encoding.md R60 to R66). -/

namespace Sys2Proof.Machine

/-! ### The telegram word -/

theorem periodOf_toNat (w : Word32) : (periodOf w).toNat = w.toNat / 2 ^ 23 := by
  have := w.isLt
  rw [periodOf, BitVec.extractLsb'_toNat, Nat.shiftRight_eq_div_pow]
  omega

theorem replogOf_toNat (w : Word32) : (replogOf w).toNat = w.toNat / 2 ^ 20 % 2 ^ 3 := by
  rw [replogOf, BitVec.extractLsb'_toNat, Nat.shiftRight_eq_div_pow]

theorem payloadOf_toNat (w : Word32) : (payloadOf w).toNat = w.toNat % 2 ^ 20 := by
  rw [payloadOf, BitVec.extractLsb'_toNat, Nat.shiftRight_zero]

/-- The three fields share no bit, so the word is their sum (30_encoding.md R60, R61). -/
theorem telegram_toNat (p : Period9) (r : Rep3) (pl : Payload20) :
    (telegram p r pl).toNat = p.toNat * 2 ^ 23 + r.toNat * 2 ^ 20 + pl.toNat := by
  have hlow : (r.toNat <<< 20 ||| pl.toNat) = r.toNat * 2 ^ 20 + pl.toNat := by
    rw [← Nat.shiftLeft_add_eq_or_of_lt pl.isLt, Nat.shiftLeft_eq]
  have hword : (p.toNat <<< 23 ||| (r.toNat <<< 20 ||| pl.toNat)) =
      p.toNat * 2 ^ 23 + (r.toNat * 2 ^ 20 + pl.toNat) := by
    rw [hlow, ← Nat.shiftLeft_add_eq_or_of_lt (by omega), Nat.shiftLeft_eq]
  have hp : p.toNat <<< 23 < 2 ^ 32 := by rw [Nat.shiftLeft_eq]; omega
  have hr : r.toNat <<< 20 < 2 ^ 32 := by rw [Nat.shiftLeft_eq]; omega
  simp only [telegram, BitVec.toNat_or, BitVec.toNat_shiftLeft, BitVec.toNat_setWidth]
  rw [Nat.mod_eq_of_lt (a := p.toNat) (by omega), Nat.mod_eq_of_lt (a := r.toNat) (by omega),
    Nat.mod_eq_of_lt (a := pl.toNat) (by omega), Nat.mod_eq_of_lt hp, Nat.mod_eq_of_lt hr, Nat.or_assoc, hword]
  omega

@[simp] theorem periodOf_telegram (p : Period9) (r : Rep3) (pl : Payload20) : periodOf (telegram p r pl) = p := by
  apply BitVec.eq_of_toNat_eq
  rw [periodOf_toNat, telegram_toNat]
  omega

@[simp] theorem replogOf_telegram (p : Period9) (r : Rep3) (pl : Payload20) : replogOf (telegram p r pl) = r := by
  apply BitVec.eq_of_toNat_eq
  rw [replogOf_toNat, telegram_toNat]
  omega

@[simp] theorem payloadOf_telegram (p : Period9) (r : Rep3) (pl : Payload20) :
    payloadOf (telegram p r pl) = pl := by
  apply BitVec.eq_of_toNat_eq
  rw [payloadOf_toNat, telegram_toNat]
  omega

/-- Every word is the word of its fields: no bit is outside them (30_encoding.md R60). -/
@[simp] theorem telegram_fields (w : Word32) : telegram (periodOf w) (replogOf w) (payloadOf w) = w := by
  apply BitVec.eq_of_toNat_eq
  rw [telegram_toNat, periodOf_toNat, replogOf_toNat, payloadOf_toNat]
  omega

/-- Settles O6: the fields of a word are its digits, and the word of three fields has them as digits. -/
theorem telegramWordIsItsThreeFields : Obligations.TelegramWordIsItsThreeFields :=
  ⟨fun w => ⟨periodOf_toNat w, replogOf_toNat w, payloadOf_toNat w, rfl, repeats_range _⟩,
    fun p r pl =>
      ⟨telegram_toNat p r pl, periodOf_telegram p r pl, replogOf_telegram p r pl, payloadOf_telegram p r pl⟩,
    telegram_fields⟩

/-! ### The trit codes -/

@[simp] theorem tritOfCode_tritCode (x : Trit) : tritOfCode (tritCode x) = some x := by
  cases x <;> rfl

/-- Only 0b01 has no trit (30_encoding.md R63). -/
theorem tritOfCode_eq_none_iff (c : Code2) : tritOfCode c = none ↔ c = 0b01#2 := by
  revert c
  decide

/-- Settles O7: each of the three codes, and each of the four code values. -/
theorem tritCodesInvert : Obligations.TritCodesInvert :=
  ⟨rfl, rfl, rfl, tritOfCode_tritCode, tritOfCode_eq_none_iff⟩

/-! ### The raw region and the payload -/

/-- The code of trit i is a base-4 digit of the raw region (30_encoding.md R64). -/
theorem raw24_digit (t : Body) {i : Nat} (hi : i < 12) :
    (raw24 t).toNat / 2 ^ (22 - 2 * i) % 4 = (tritCode t[i]).toNat := by
  have := tritCode_lt t[0]; have := tritCode_lt t[1]; have := tritCode_lt t[2]; have := tritCode_lt t[3]
  have := tritCode_lt t[4]; have := tritCode_lt t[5]; have := tritCode_lt t[6]; have := tritCode_lt t[7]
  have := tritCode_lt t[8]; have := tritCode_lt t[9]; have := tritCode_lt t[10]; have := tritCode_lt t[11]
  rw [raw24_toNat]
  interval_cases i <;> simp only [Nat.reduceMul, Nat.reduceSub] <;> omega

/-- Trit i is in bits 23-2i and 22-2i of the raw region (30_encoding.md R64). -/
theorem raw24_code (t : Body) {i : Nat} (hi : i < 12) :
    (raw24 t).extractLsb' (22 - 2 * i) 2 = tritCode t[i] := by
  apply BitVec.eq_of_toNat_eq
  rw [BitVec.extractLsb'_toNat, Nat.shiftRight_eq_div_pow, raw24_digit t hi]

/-- A pair of bits that lies in the payload is the raw region's (30_encoding.md R65). -/
theorem payload20_code (t : Body) {i : Nat} (hi : i < 12) (hkept : 2 ≤ i) :
    (payload20 t).extractLsb' (22 - 2 * i) 2 = tritCode t[i] := by
  rw [← raw24_code t hi, payload20, BitVec.extractLsb'_extractLsb'_of_le (by omega)]

/-- Trits 0 and 1 lie above the payload (30_encoding.md R65). -/
theorem payload20_congr {t u : Body} (h : ∀ (i : Nat) (hi : i < 12), 2 ≤ i → t[i] = u[i]) :
    payload20 t = payload20 u := by
  refine BitVec.eq_of_getLsbD_eq fun k hk => ?_
  have hi : 11 - k / 2 < 12 := by omega
  have hkept : 2 ≤ 11 - k / 2 := by omega
  have hcodes : (payload20 t).extractLsb' (22 - 2 * (11 - k / 2)) 2 =
      (payload20 u).extractLsb' (22 - 2 * (11 - k / 2)) 2 := by
    rw [payload20_code t hi hkept, payload20_code u hi hkept, h _ hi hkept]
  have hk' : 22 - 2 * (11 - k / 2) + k % 2 = k := by omega
  simpa [BitVec.getLsbD_extractLsb', hk', show k % 2 ≤ 1 by omega] using
    congrArg (fun c : Code2 => c.getLsbD (k % 2)) hcodes

/-- Settles O8: twelve codes of two bits never carry, so each stays a digit of their sum. -/
theorem rawRegionPlacesEveryTrit : Obligations.RawRegionPlacesEveryTrit :=
  fun t _ hi => raw24_code t hi

/-- Settles O9: the digits below 2^20 are those of trits 2 to 11, and they are the whole payload. -/
theorem payloadKeepsTritsTwoToEleven : Obligations.PayloadKeepsTritsTwoToEleven := by
  refine ⟨fun _ => rfl, fun t _ hi hkept => payload20_code t hi hkept, fun t x y => ?_⟩
  refine payload20_congr fun i hi hkept => ?_
  rw [Vector.getElem_set_ne _ _ (by omega), Vector.getElem_set_ne _ _ (by omega)]

/-! ### Replay -/

/-- A list of codes has no trits exactly when the reserved code is one of them (30_encoding.md R63). -/
theorem tritsOfCodes_eq_none_iff (l : List Code2) : tritsOfCodes l = none ↔ 0b01#2 ∈ l := by
  induction l with
  | nil => simp [tritsOfCodes]
  | cons c cs ih =>
    rw [List.mem_cons, ← ih, eq_comm (a := 1#2), ← tritOfCode_eq_none_iff]
    cases hc : tritOfCode c <;> cases hcs : tritsOfCodes cs <;> simp [tritsOfCodes, hc, hcs]

/-- The 12 codes that have trits are always a whole telegram body. -/
theorem replay_eq_none_iff (pl : Payload20) : replay pl = none ↔ ∃ i < 12, replayCode pl i = 0b01#2 := by
  have hmem : 0b01#2 ∈ (List.range 12).map (replayCode pl) ↔ ∃ i < 12, replayCode pl i = 0b01#2 := by simp
  rw [← hmem, ← tritsOfCodes_eq_none_iff, replay]
  cases h : tritsOfCodes ((List.range 12).map (replayCode pl)) with
  | none => simp
  | some l =>
    have hlength : l.length = 12 := by simpa using (congrArg List.length (tritsOfCodes_some h)).symm
    simp [bodyOfList, hlength]

/-- Each replayed trit is that of its code (30_encoding.md R66). -/
theorem replay_trit {pl : Payload20} {b : Body} (h : replay pl = some b) {i : Nat} (hi : i < 12) :
    tritOfCode (replayCode pl i) = some b[i] := by
  unfold replay at h
  split at h
  · have hcodes := tritsOfCodes_some ‹_›
    rw [← bodyOfList_some h] at hcodes
    simpa [hi] using congrArg (fun l => l[i]?) hcodes
  · cases h

/-- The zero-extended payload has zeros above its 20 bits. -/
theorem replayCode_high (pl : Payload20) {i : Nat} (hi : i < 2) : replayCode pl i = 0b00#2 := by
  have := pl.isLt
  apply BitVec.eq_of_toNat_eq
  rw [replayCode_toNat]
  interval_cases i <;> simp <;> omega

/-- Settles O10: a list of codes has trits unless one of them is 0b01, and the two codes above the
payload are 0b00. -/
theorem replayDecodesTwelveCodes : Obligations.ReplayDecodesTwelveCodes := by
  intro pl
  refine ⟨fun _ _ => rfl, replay_eq_none_iff pl, fun b hb => ?_⟩
  have hlow : ∀ (i : Nat) (hi : i < 2), b[i] = .low := fun i hi => by
    have htrit := replay_trit hb (show i < 12 by omega)
    rw [replayCode_high pl hi] at htrit
    exact (Option.some.inj htrit).symm
  exact ⟨hlow 0 (by decide), hlow 1 (by decide), fun i hi => replay_trit hb hi⟩

end Sys2Proof.Machine
end

section
/-! What a command is rejected for: the checks against the table of legal operands (30_encoding.md R70,
60_exceptions.md R141, R144). -/

namespace Sys2Proof.Machine

/-! ### One check -/

/-- A result agrees with a list of causes: it is the first of them, and a value if there are none
(60_exceptions.md R144). -/
def ReportsFirst {α : Type} (r : Except Reject α) (cs : List Reject) : Prop :=
  match cs.head? with
  | none => ∃ x, r = .ok x
  | some c => r = .error c

@[simp] theorem reportsFirst_nil {α : Type} (r : Except Reject α) : ReportsFirst r [] ↔ ∃ x, r = .ok x := Iff.rfl

@[simp] theorem reportsFirst_cons {α : Type} (r : Except Reject α) (c : Reject) (cs : List Reject) :
    ReportsFirst r (c :: cs) ↔ r = .error c := Iff.rfl

/-- Only the first of the causes matters. -/
theorem ReportsFirst.congr {α : Type} {r : Except Reject α} {cs ds : List Reject} (h : ReportsFirst r cs)
    (hhead : cs.head? = ds.head?) : ReportsFirst r ds := by
  unfold ReportsFirst at h ⊢
  rwa [← hhead]

/-- A check passed on a legal operand and failed with its one cause on any other. -/
theorem reportsFirst_check {α : Type} {r : Except Reject α} {legal : Prop} [Decidable legal] {c : Reject}
    (hpass : legal → ∃ x, r = .ok x) (hfail : ¬ legal → r = .error c) :
    ReportsFirst r (if legal then [] else [c]) := by
  split
  · exact hpass ‹_›
  · exact hfail ‹_›

/-- Checks made one after the other report the first cause of the first that fails. -/
theorem ReportsFirst.bind {α β : Type} {r : Except Reject α} {f : α → Except Reject β} {cs ds : List Reject}
    (hr : ReportsFirst r cs) (hf : ∀ x, r = .ok x → ReportsFirst (f x) ds) :
    ReportsFirst (r >>= f) (cs ++ ds) := by
  cases cs with
  | nil =>
    obtain ⟨x, rfl⟩ := (reportsFirst_nil r).1 hr
    exact hf x rfl
  | cons c cs =>
    obtain rfl := (reportsFirst_cons r c cs).1 hr
    exact check_failed c f

/-- Nothing that can fail follows the last check. -/
theorem ReportsFirst.bind_ok {α β : Type} {r : Except Reject α} {f : α → β} {cs : List Reject}
    (hr : ReportsFirst r cs) : ReportsFirst (r >>= fun x => .ok (f x)) cs := by
  simpa using hr.bind (ds := []) fun x _ => ⟨f x, rfl⟩

/-- What is made of the value in the end does not matter. -/
theorem ReportsFirst.map {α β : Type} {r : Except Reject α} {f : α → β} {cs : List Reject}
    (hr : ReportsFirst r cs) : ReportsFirst (r.map f) cs := by
  have hmap : r.map f = r >>= fun x => .ok (f x) := by cases r <;> rfl
  exact hmap ▸ hr.bind_ok

theorem tritsOperand_reports (t : List Trit) :
    ReportsFirst (tritsOperand t) (if legalTrits t then [] else [.tritCount]) := by
  refine reportsFirst_check (fun h => ?_) (fun h => tritsOperand_error (by simpa [legalTrits] using h))
  have hlength : t.length = 12 := by simpa [legalTrits] using h
  exact ⟨⟨⟨t⟩, hlength⟩, tritsOperand_toList ⟨⟨t⟩, hlength⟩⟩

theorem periodOperand_reports (n : Nat) :
    ReportsFirst (periodOperand n) (if legalPeriod n then [] else [.periodRange]) := by
  refine reportsFirst_check (fun h => ?_) (fun h => periodOperand_error (by simpa [legalPeriod] using h))
  have hn : ¬ n > 511 := by simpa [legalPeriod] using h
  exact ⟨_, if_neg hn⟩

theorem replogOperand_reports (n : Nat) :
    ReportsFirst (replogOperand n) (if legalReplog n then [] else [.repeatRange]) := by
  refine reportsFirst_check (fun h => ?_) (fun h => replogOperand_error (by simpa [legalReplog] using h))
  have hn : ¬ n > 7 := by simpa [legalReplog] using h
  exact ⟨_, if_neg hn⟩

theorem payloadOperand_reports (n : Nat) :
    ReportsFirst (payloadOperand n) (if n ≤ 0xFFFFF then [] else [.payloadRange]) :=
  reportsFirst_check (fun h => ⟨_, if_neg (by omega)⟩) (fun h => payloadOperand_error (by omega))

/-- A payload operand that passes is handed on unchanged. -/
theorem payloadOperand_toNat_of_ok {n : Nat} {pl : Payload20} (h : payloadOperand n = .ok pl) : pl.toNat = n := by
  unfold payloadOperand at h
  split at h
  · cases h
  · cases h
    rw [BitVec.toNat_ofNat, Nat.mod_eq_of_lt (by omega)]

/-- The 0b01 pair of a payload that `legalPayload` looks for is a code that `replay` cannot decode
(30_encoding.md R63, 41_transmitter.md R107). -/
theorem replay_eq_none_iff_not_legalPayload (pl : Payload20) :
    replay pl = none ↔ ¬ legalPayload pl.toNat = true := by
  have hcode : ∀ i j, i + j = 11 → (replayCode pl i = 0b01#2 ↔ pl.toNat / 4 ^ j % 4 = 1) := by
    intro i j hij
    have hshift : 2 ^ (22 - 2 * i) = 4 ^ j := by
      rw [show 22 - 2 * i = 2 * j by omega, Nat.pow_mul]
    rw [← BitVec.toNat_inj, replayCode_toNat, hshift]
    rfl
  have hlegal : ¬ legalPayload pl.toNat = true ↔ ∃ j < 10, pl.toNat / 4 ^ j % 4 = 1 := by
    simp [legalPayload]
  rw [replay_eq_none_iff, hlegal]
  constructor
  · rintro ⟨i, hi, h⟩
    have hkept : 2 ≤ i := by
      by_contra hhigh
      rw [replayCode_high pl (by omega)] at h
      cases h
    exact ⟨11 - i, by omega, (hcode i (11 - i) (by omega)).1 h⟩
  · rintro ⟨j, hj, h⟩
    exact ⟨11 - j, by omega, (hcode (11 - j) j (by omega)).2 h⟩

theorem replayOperand_reports (pl : Payload20) :
    ReportsFirst (replayOperand pl) (if legalPayload pl.toNat then [] else [.reservedCode]) := by
  refine reportsFirst_check (fun h => ?_) (fun h => ?_)
  · cases hb : replay pl with
    | none => exact absurd h ((replay_eq_none_iff_not_legalPayload pl).1 hb)
    | some b => exact ⟨b, replayOperand_ok hb⟩
  · exact replayOperand_error ((replay_eq_none_iff_not_legalPayload pl).2 h)

/-! ### A command's checks -/

theorem pack_reports (t : List Trit) (p r : Nat) : ReportsFirst (pack t p r) (causes (.pack t p r)) := by
  simp only [causes, List.append_assoc]
  exact (tritsOperand_reports t).bind fun _ _ =>
    (periodOperand_reports p).bind fun _ _ => (replogOperand_reports r).bind_ok

theorem sendTritsArgs_reports (t : List Trit) (p r : Nat) (q : PinId) :
    ReportsFirst (sendTritsArgs t p r q) (causes (.sendTrits t p r q)) := by
  simp only [causes, List.append_assoc]
  exact (tritsOperand_reports t).bind fun _ _ =>
    (periodOperand_reports p).bind fun _ _ => (replogOperand_reports r).bind_ok

theorem sendPackedArgs_reports (w : Word32) (q : PinId) :
    ReportsFirst (sendPackedArgs w q) (causes (.sendPacked w q)) := by
  simp only [causes, ← payloadOf_toNat]
  exact (replayOperand_reports (payloadOf w)).bind_ok

/-- Two checks with one cause report it as one check of both does. -/
theorem head?_two_checks (p q : Prop) [Decidable p] [Decidable q] (c : Reject) (o : Option Reject) :
    (if p then [] else [c]).head?.or ((if q then [] else [c]).head?.or o) =
      (if p ∧ q then [] else [c]).head?.or o := by
  by_cases hp : p <;> simp [hp]

/-- SEND_PAIR makes two range checks and then two code checks (60_exceptions.md R144: pa before pb). -/
theorem sendPairArgs_reports (pa pb p r : Nat) (q : PinId) :
    ReportsFirst (sendPairArgs pa pb p r q) (causes (.sendPair pa pb p r q)) := by
  have hchecks := (periodOperand_reports p).bind fun p' _ => (replogOperand_reports r).bind fun r' _ =>
    (payloadOperand_reports pa).bind fun a ha => (payloadOperand_reports pb).bind fun b hb =>
      (payloadOperand_toNat_of_ok ha ▸ replayOperand_reports a).bind fun ta _ =>
        (payloadOperand_toNat_of_ok hb ▸ replayOperand_reports b).bind (ds := []) fun tb _ =>
          ⟨RunArgs.mk q p' r' ta (some tb), rfl⟩
  refine hchecks.congr ?_
  simp only [causes, List.append_assoc, Bool.and_eq_true, List.head?_append, List.head?_nil, head?_two_checks]
  rw [Option.or_none]

/-! ### The command -/

/-- R70's table and the causes of R141 agree on which operands are legal. -/
theorem wellFormed_iff_causes_eq_nil (i : Instr) : i.wellFormed = true ↔ causes i = [] := by
  have hcheck : ∀ (p : Prop) [Decidable p] (c : Reject), (if p then [] else [c]) = [] ↔ p := by
    intro p _ c
    split <;> simp [*]
  cases i with
  | pack | unpack | sameCode | sendPacked | sendTrits => simp [Instr.wellFormed, causes, hcheck, and_assoc]
  | sendPair =>
    simp only [Instr.wellFormed, causes, hcheck, legalPairPayload, List.append_eq_nil_iff, Bool.and_eq_true,
      decide_eq_true_eq]
    tauto

/-- A command's first step in `s` agrees with a list of causes: with none it is no rejection, else it changes the
result only, to the first of them (60_exceptions.md R142, R144). -/
def AnswersFirst (o : Host.Outcome State Fault Refusal) (s : State) (cs : List Reject) : Prop :=
  (cs = [] → ∃ t, o = .next t ∧ ∀ c, t.response ≠ some (.rejected c)) ∧
  ∀ c rest, cs = c :: rest → o = .next { s with response := some (.rejected c) }

/-- What an accepted command makes of its checks: `answer` is `finish` of a codec command, `launch` of a send. -/
theorem accept_answersFirst {α : Type} {r : Except Reject α} {cs : List Reject} (hr : ReportsFirst r cs)
    {s : State} (hidle : s.phase = .idle) (answer : Except Reject α → State → State)
    (hok : ∀ x c, (answer (.ok x) s).response ≠ some (.rejected c))
    (herror : ∀ c, answer (.error c) s = respond (.rejected c) s) : AnswersFirst (accept s (answer r s)) s cs := by
  rw [accept_idle _ hidle]
  refine ⟨?_, ?_⟩
  · rintro rfl
    obtain ⟨x, rfl⟩ := (reportsFirst_nil r).1 hr
    exact ⟨_, rfl, hok x⟩
  · rintro c rest rfl
    obtain rfl := (reportsFirst_cons r c rest).1 hr
    rw [herror]
    rfl

/-- Every command in IDLE is rejected with the first cause that applies, or not at all (60_exceptions.md R144). -/
theorem exec_answersFirst (i : Instr) {s : State} (hidle : s.phase = .idle) :
    AnswersFirst (exec i s) s (causes i) := by
  have codec : ∀ {r : Except Reject Value}, ReportsFirst r (causes i) → exec i s = accept s (finish r s) →
      AnswersFirst (exec i s) s (causes i) := fun hr hexec =>
    hexec ▸ accept_answersFirst hr hidle finish (by simp) (fun c => finish_error c s)
  have send : ∀ {r : Except Reject RunArgs}, ReportsFirst r (causes i) → exec i s = accept s (launch r s) →
      AnswersFirst (exec i s) s (causes i) := fun hr hexec =>
    hexec ▸ accept_answersFirst hr hidle launch (by simp) (fun c => launch_error c s)
  cases i with
  | pack t p r => exact codec (pack_reports t p r).map rfl
  | unpack w => exact codec ⟨_, rfl⟩ rfl
  | sameCode a b => exact codec ⟨_, rfl⟩ rfl
  | sendPacked w q => exact send (sendPackedArgs_reports w q) rfl
  | sendTrits t p r q => exact send (sendTritsArgs_reports t p r q) rfl
  | sendPair pa pb p r q => exact send (sendPairArgs_reports pa pb p r q) rfl

/-- Settles O39: each command's checks report the first of its causes, and its first step answers with
that report. -/
theorem firstCauseIsReported : Obligations.FirstCauseIsReported := by
  intro s hidle
  exact ⟨fun op operands hop => serve_reserved hop operands hidle,
    fun i => ⟨wellFormed_iff_causes_eq_nil i, exec_answersFirst i hidle⟩⟩

end Sys2Proof.Machine
end

section
/-! The codec's commands PACK, UNPACK and SAME_CODE, and their laws (40_codec.md R80 to R85). -/

namespace Sys2Proof.Machine

/-! ### The pure functions -/

/-- PACK of operands in range passes the three checks (40_codec.md R80). -/
@[simp] theorem pack_toList (t : Body) (p : Period9) (r : Rep3) :
    pack t.toList p.toNat r.toNat = .ok (telegram p r (payload20 t)) := by
  simp [pack]

/-- A word determines its three fields, so equal words have equal fields (30_encoding.md R61). -/
theorem telegram_inj {p p' : Period9} {r r' : Rep3} {pl pl' : Payload20} :
    telegram p r pl = telegram p' r' pl' ↔ p = p' ∧ r = r' ∧ pl = pl' := by
  constructor
  · intro h
    exact ⟨by simpa using congrArg periodOf h, by simpa using congrArg replogOf h,
      by simpa using congrArg payloadOf h⟩
  · rintro ⟨rfl, rfl, rfl⟩
    rfl

/-- The payload keeps exactly trits 2 to 11: each is read back from its code (30_encoding.md R65). -/
theorem payload20_eq_iff {t u : Body} :
    payload20 t = payload20 u ↔ ∀ (i : Nat) (hi : i < 12), 2 ≤ i → t[i] = u[i] := by
  refine ⟨fun h i hi hkept => tritCode_injective ?_, payload20_congr⟩
  rw [← payload20_code t hi hkept, h, payload20_code u hi hkept]

theorem sameCode_iff (a b : Word32) : sameCode a b = true ↔ payloadOf a = payloadOf b := beq_iff_eq

/-- SAME_CODE of two packings compares their payloads, whatever the timing (40_codec.md R84). -/
theorem sameCode_telegram (p p' : Period9) (r r' : Rep3) (pl pl' : Payload20) :
    sameCode (telegram p r pl) (telegram p' r' pl') = true ↔ pl = pl' := by
  rw [sameCode_iff, payloadOf_telegram, payloadOf_telegram]

/-- Bits 19:0 of a word are its remainder by 2^20 (40_codec.md R82). -/
theorem sameCode_eq_decide (a b : Word32) : sameCode a b = decide (a.toNat % 2 ^ 20 = b.toNat % 2 ^ 20) := by
  rw [Bool.eq_iff_iff, sameCode_iff, decide_eq_true_iff, ← BitVec.toNat_inj, payloadOf_toNat, payloadOf_toNat]

/-! ### The commands in IDLE -/

theorem exec_pack_legal (t : Body) (p : Period9) (r : Rep3) {s : State} (hidle : s.phase = .idle) :
    exec (.pack t.toList p.toNat r.toNat) s =
      .next (respond (.ok (some (.word (telegram p r (payload20 t))))) s) := by
  have haccept : exec (.pack t.toList p.toNat r.toNat) s =
      accept s (finish ((pack t.toList p.toNat r.toNat).map .word) s) := rfl
  rw [haccept, accept_idle _ hidle, pack_toList]
  rfl

theorem exec_unpack (w : Word32) {s : State} (hidle : s.phase = .idle) :
    exec (.unpack w) s = .next (respond (.ok (some (.fields (periodOf w) (replogOf w) (payloadOf w)))) s) :=
  accept_idle _ hidle

theorem exec_sameCode (a b : Word32) {s : State} (hidle : s.phase = .idle) :
    exec (.sameCode a b) s = .next (respond (.ok (some (.truth (sameCode a b)))) s) :=
  accept_idle _ hidle

/-- A command with a cause is rejected with its first one (60_exceptions.md R142, R144). -/
theorem exec_rejected {i : Instr} {c : Reject} {s : State} (hidle : s.phase = .idle)
    (hfirst : (causes i).head? = some c) : exec i s = .next { s with response := some (.rejected c) } := by
  obtain ⟨rest, hcauses⟩ := List.head?_eq_some_iff.1 hfirst
  exact (exec_answersFirst i hidle).2 c rest hcauses

/-! ### The statements -/

/-- Settles O11: in range all checks pass; else the first of PACK's causes is the one the guards leave. -/
theorem packReturnsTheWordOrItsRejection : Obligations.PackReturnsTheWordOrItsRejection := by
  intro s hidle
  refine ⟨fun t p r => exec_pack_legal t p r hidle, fun trits period replog => ⟨?_, ?_, ?_⟩⟩
  · intro hlength
    exact exec_rejected hidle (by simp [causes, legalTrits, hlength])
  · intro hlength hperiod
    exact exec_rejected hidle (by simp [causes, legalTrits, legalPeriod, hlength, hperiod.not_ge])
  · intro hlength hperiod hreplog
    exact exec_rejected hidle
      (by simp [causes, legalTrits, legalPeriod, legalReplog, hlength, hperiod, hreplog.not_ge])

/-- Settles O14: PACK and UNPACK leave the block in IDLE, and the fields of the packed word are what went in. -/
theorem packThenUnpackRoundTrips : Obligations.PackThenUnpackRoundTrips := by
  intro t p r s hidle
  refine ⟨telegram p r (payload20 t), _, _, _, exec_pack_legal t p r hidle, rfl, exec_unpack _ hidle, ?_,
    exec_pack_legal t p r hidle, rfl⟩
  rw [respond_response, periodOf_telegram, replogOf_telegram, payloadOf_telegram]
  rfl

/-- Settles O15: SAME_CODE is equality of payloads, and PACK puts the timing outside the payload. -/
theorem sameCodeIsAnEquivalence : Obligations.SameCodeIsAnEquivalence := by
  refine ⟨fun a => ?_, fun a b => ?_, fun a b c hab hbc => ?_, fun t p1 p2 r1 r2 => ?_,
    fun a b s hidle => exec_sameCode a b hidle⟩
  · exact (sameCode_iff a a).2 rfl
  · rw [Bool.eq_iff_iff, sameCode_iff, sameCode_iff, eq_comm]
  · exact (sameCode_iff a c).2 (((sameCode_iff a b).1 hab).trans ((sameCode_iff b c).1 hbc))
  · exact ⟨_, _, pack_toList t p1 r1, pack_toList t p2 r2, (sameCode_telegram ..).2 rfl⟩

/-- Settles O16: a word determines its fields, and its payload determines trits 2 to 11 and no more. -/
theorem packKeepsExactlyTimingAndTenTrits : Obligations.PackKeepsExactlyTimingAndTenTrits := by
  intro t t' p p' r r'
  refine ⟨_, _, pack_toList t p r, pack_toList t' p' r', ?_, ?_⟩
  · rw [telegram_inj, payload20_eq_iff]
  · rw [sameCode_telegram, payload20_eq_iff]

/-- Settles O12: the three fields are the word's bits 31:23, 22:20 and 19:0. -/
theorem unpackReturnsTheFields : Obligations.UnpackReturnsTheFields :=
  fun w _ hidle => exec_unpack w hidle

/-- Settles O13: two words have one payload exactly when their remainders by 2^20 agree. -/
theorem sameCodeComparesPayloads : Obligations.SameCodeComparesPayloads := by
  intro a b s hidle
  rw [exec_sameCode a b hidle, sameCode_eq_decide]
  rfl

end Sys2Proof.Machine
end

section
/-! The waveform as data (41_transmitter.md R102 to R105, R121): what bodies, plans, events and timelines are made
of, and the periods they take. -/

namespace Sys2Proof.Machine

/-! ### Bodies and plans -/

theorem tritSegs_totalPeriods {w : TritWave} (hw : w.Valid) (x : Trit) :
    totalPeriods (tritSegs w x) = Config.tritPeriods := (tritSegs_valid hw x).2.2

/-- Every waveform that meets 00_scope.md R6 takes 6 periods, so a list of trits takes 6 each. -/
theorem totalPeriods_trits {w : TritWave} (hw : w.Valid) (l : List Trit) :
    totalPeriods (l.flatMap (tritSegs w)) = l.length * Config.tritPeriods := by
  induction l with
  | nil => simp [totalPeriods]
  | cons x xs ih =>
    rw [List.flatMap_cons, totalPeriods_append, ih, tritSegs_totalPeriods hw, List.length_cons]
    ring

/-- 32 periods of sync and 12 waveforms of 6 (41_transmitter.md R102). -/
theorem bodySegs_totalPeriods {w : TritWave} (hw : w.Valid) (t : Body) : totalPeriods (bodySegs w t) = 104 := by
  rw [bodySegs, totalPeriods_append, totalPeriods_trits hw, body_length]
  rfl

theorem body_toList_eq_finRange (t : Body) : t.toList = (List.finRange 12).map fun i => t[i] :=
  List.ext_getElem (by simp) fun i hi _ => by simp

/-- Settles O19: the waveforms of the 12 trits in order, 6 periods each, behind a sync of 32. -/
theorem bodyTakesOneHundredFourPeriods : Obligations.BodyTakesOneHundredFourPeriods := by
  refine fun w t => ⟨?_, fun hw => bodySegs_totalPeriods hw t⟩
  rw [bodySegs, body_toList_eq_finRange, List.flatMap_map, List.flatMap_def]
  rfl

@[simp] theorem plan_nil (w : TritWave) (r : Rep3) : plan w [] r = [] := rfl

/-- All repeats of one telegram, then the plan of the rest (41_transmitter.md R103). -/
theorem plan_cons (w : TritWave) (t : Body) (ts : List Body) (r : Rep3) :
    plan w (t :: ts) r = (List.replicate (repeats r) (bodySegs w t)).flatten ++ plan w ts r := rfl

/-- Settles O20: a plan telegram by telegram. -/
theorem planRepeatsEachTelegramInTurn : Obligations.PlanRepeatsEachTelegramInTurn := by
  intro w a b r
  simp only [plan_cons, plan_nil, List.append_nil]
  exact ⟨rfl, rfl⟩

theorem totalPeriods_replicate (n : Nat) (segs : List Seg) :
    totalPeriods (List.replicate n segs).flatten = n * totalPeriods segs := by
  induction n with
  | zero => simp [totalPeriods]
  | succ n ih =>
    rw [List.replicate_succ, List.flatten_cons, totalPeriods_append, ih]
    ring

/-- A plan takes 104 periods for each repeat of each telegram (41_transmitter.md R115). -/
theorem plan_totalPeriods {w : TritWave} (hw : w.Valid) (bodies : List Body) (r : Rep3) :
    totalPeriods (plan w bodies r) = bodies.length * (repeats r * 104) := by
  induction bodies with
  | nil => simp [totalPeriods]
  | cons t ts ih =>
    rw [plan_cons, totalPeriods_append, totalPeriods_replicate, bodySegs_totalPeriods hw, ih, List.length_cons]
    ring

/-- Bodies of S segments each make a plan of S segments for each repeat of each telegram (41_transmitter.md R109). -/
theorem plan_length_of_uniform {w : TritWave} {bodies : List Body} {S : Nat}
    (h : ∀ t ∈ bodies, (bodySegs w t).length = S) (r : Rep3) :
    (plan w bodies r).length = bodies.length * 2 ^ r.toNat * S := by
  have hlengths : bodies.map (fun t => 2 ^ r.toNat * (bodySegs w t).length) =
      List.replicate bodies.length (2 ^ r.toNat * S) :=
    List.map_eq_replicate_iff.2 fun t ht => by rw [h t ht]
  rw [plan_length, hlengths, List.sum_replicate, smul_eq_mul, Nat.mul_assoc]

/-! ### Events -/

theorem events_length (pin : PinId) (p : Period9) (segs : List Seg) :
    (events pin p segs).length = 2 * segs.length + 1 := by
  induction segs with
  | nil => rfl
  | cons sg segs ih =>
    simp only [events_cons, List.length_cons, ih]
    ring

/-- Segment j gives event 2j and event 2j + 1 (41_transmitter.md R104). -/
theorem events_of_segment (pin : PinId) (p : Period9) {segs : List Seg} {j : Nat} {sg : Seg}
    (h : segs[j]? = some sg) :
    (events pin p segs)[2 * j]? = some (.write pin sg.1) ∧
      (events pin p segs)[2 * j + 1]? = some (.wait (sg.2 * p.toNat)) := by
  induction segs generalizing j with
  | nil => simp at h
  | cons x xs ih =>
    cases j with
    | zero =>
      obtain rfl : x = sg := by simpa using h
      simp [events_cons]
    | succ j =>
      simpa [events_cons, Nat.mul_succ] using ih (j := j) (by simpa using h)

/-- The closing Write comes after the two events of every segment (41_transmitter.md R105). -/
theorem events_closing (pin : PinId) (p : Period9) (segs : List Seg) :
    (events pin p segs)[2 * segs.length]? = some (.write pin .low) := by
  induction segs with
  | nil => rfl
  | cons sg segs ih => simpa [events_cons, Nat.mul_succ] using ih

/-- Settles O21: two events come off the front of the list with each segment, and one is left. -/
theorem eventsAreOneWriteAndOneWaitASegment : Obligations.EventsAreOneWriteAndOneWaitASegment :=
  fun pin p segs => ⟨fun _ _ h => events_of_segment pin p h, events_closing pin p segs, events_length pin p segs⟩

/-- The requested duration of a send is its periods (41_transmitter.md R115). -/
theorem waitSum_events (pin : PinId) (p : Period9) (segs : List Seg) :
    waitSum (events pin p segs) = totalPeriods segs * p.toNat := by
  induction segs with
  | nil => simp [waitSum, waitOf, totalPeriods]
  | cons sg segs ih =>
    simp only [waitSum, totalPeriods] at ih ⊢
    simp [events_cons, waitOf, ih]
    ring

/-- One Write for each segment, and the closing one (41_transmitter.md R116). -/
theorem writeCount_events (pin : PinId) (p : Period9) (segs : List Seg) :
    writeCount (events pin p segs) = segs.length + 1 := by
  induction segs with
  | nil => rfl
  | cons sg segs ih =>
    rw [writeCount] at ih ⊢
    rw [events_cons, List.countP_cons, List.countP_cons, ih]
    rfl

/-- One Wait for each segment (41_transmitter.md R116). -/
theorem waitCount_events (pin : PinId) (p : Period9) (segs : List Seg) :
    waitCount (events pin p segs) = segs.length := by
  induction segs with
  | nil => rfl
  | cons sg segs ih =>
    rw [waitCount] at ih ⊢
    rw [events_cons, List.countP_cons, List.countP_cons, ih]
    rfl

/-! ### The timeline -/

/-- From a start `t0` on, each segment starts where the ones before it end (41_transmitter.md R121). -/
theorem timeline_getElem? (p : Period9) (t0 : Nat) {segs : List Seg} {j : Nat} {sg : Seg}
    (h : segs[j]? = some sg) :
    (timeline p t0 segs)[j]? = some (t0 + totalPeriods (segs.take j) * p.toNat, sg.1, sg.2 * p.toNat) := by
  induction segs generalizing j t0 with
  | nil => simp at h
  | cons x xs ih =>
    cases j with
    | zero =>
      obtain rfl : x = sg := by simpa using h
      simp [timeline, totalPeriods]
    | succ j =>
      have hstart : t0 + x.2 * p.toNat + totalPeriods (xs.take j) * p.toNat =
          t0 + totalPeriods ((x :: xs).take (j + 1)) * p.toNat := by
        simp only [totalPeriods, List.take_succ_cons, List.map_cons, List.sum_cons]
        ring
      simpa only [timeline, List.getElem?_cons_succ, hstart] using ih (t0 + x.2 * p.toNat) (j := j) (by simpa using h)

/-- Settles O22: the timeline's starts, from 0 on. -/
theorem timelineStartsAtThePrefixSum : Obligations.TimelineStartsAtThePrefixSum := by
  intro p segs j sg h
  rw [timeline_getElem? p 0 h, Nat.zero_add]

end Sys2Proof.Machine
end

section
/-! The single steps of a send (41_transmitter.md R110 to R114, R118, R120). -/

namespace Sys2Proof.Machine

/-! ### RUN's start -/

theorem startRun_telegramCount (a : RunArgs) (s : State) :
    telegramCount (startRun a s).latch.ntel = (runBodies a).length := by
  cases hb : a.bodyB <;> simp [hb, runBodies, telegramCount]

/-- Settles O24: RUN writes the phase, the position, the latches and the response. -/
theorem runLatchesTheOperands : Obligations.RunLatchesTheOperands := by
  refine fun a s => ⟨a.bodyB.getD s.latch.bodyB, fun b hb => by simp [hb], ?_, startRun_telegramCount a s, rfl⟩
  cases hb : a.bodyB <;> simp [startRun, hb]

/-! ### WRITE, WAIT and FINAL -/

/-- Settles O25: the emitted Write sets PINLVL at the send's pin. -/
theorem writeStepWritesTheSegmentLevel : Obligations.WriteStepWritesTheSegmentLevel :=
  fun s l _ hphase hseg => ⟨step_write hphase hseg, readPin_writePin_same s.pinlvl s.latch.pin l⟩

/-- Settles O27: FINAL emits the closing Write and frees the registers. -/
theorem finalStepReturnsOkWithThePinLow : Obligations.FinalStepReturnsOkWithThePinLow :=
  fun s hphase => ⟨_, step_final hphase, rfl, readPin_writePin_same s.pinlvl s.latch.pin .low⟩

/-! No counter of the position wraps: in range it is below the bound that its register can hold. -/

theorem seg_succ_toNat {s : State} (hw : s.config.tritWave.Valid) (hs : PositionInRange s) :
    (s.pos.seg + 1).toNat = s.pos.seg.toNat + 1 := by
  obtain ⟨helem, hseg, -, -⟩ := hs
  have hlen : (currentSegs s).length ≤ 6 := (elemSegs_length hw s.latch s.pos.tel helem).2
  bv_omega

theorem elem_succ_toNat {s : State} (h : s.pos.elem.toNat < 12) :
    (s.pos.elem + 1).toNat = s.pos.elem.toNat + 1 := by
  bv_omega

theorem rep_succ_toNat {s : State} (h : s.pos.rep.toNat + 1 < repeats s.latch.replog) :
    (s.pos.rep + 1).toNat = s.pos.rep.toNat + 1 := by
  have hrepeats := (repeats_range s.latch.replog).2
  bv_omega

theorem tel_succ_toNat {s : State} (h : s.pos.tel.toNat + 1 < telegramCount s.latch.ntel) :
    (s.pos.tel + 1).toNat = s.pos.tel.toNat + 1 := by
  have hcount := (telegramCount_range s.latch.ntel).2
  bv_omega

/-- Settles O26: the five things an advance can do, each under its own guard. -/
theorem waitStepAdvancesInnermostFirst : Obligations.WaitStepAdvancesInnermostFirst := by
  intro s l k hphase hvalid hrange hseg
  refine ⟨_, step_wait hphase hseg, rfl, ?_⟩
  have hrepeats : repeats s.latch.replog = 2 ^ s.latch.replog.toNat := rfl
  dsimp only
  rcases advance_cases s with
    ⟨hmore, ha⟩ | ⟨hlast, ⟨hmore, ha⟩ | ⟨hlastElem, ⟨hmore, ha⟩ | ⟨hlastRep, ⟨hmore, ha⟩ |
      ⟨hlastTel, ha⟩⟩⟩⟩ <;> rw [ha, ← hrepeats]
  · exact ⟨fun _ => ⟨rfl, seg_succ_toNat hvalid.1 hrange, rfl, rfl, rfl⟩, by omega⟩
  · exact ⟨by omega, fun _ => ⟨fun _ => ⟨rfl, rfl, elem_succ_toNat hmore, rfl, rfl⟩, by omega⟩⟩
  · exact ⟨by omega, fun _ => ⟨by omega,
      fun _ => ⟨fun _ => ⟨rfl, rfl, rfl, rep_succ_toNat hmore, rfl⟩, by omega⟩⟩⟩
  · exact ⟨by omega, fun _ => ⟨by omega, fun _ => ⟨by omega,
      fun _ => ⟨fun _ => ⟨rfl, rfl, rfl, rfl, tel_succ_toNat hmore⟩, by omega⟩⟩⟩⟩
  · exact ⟨by omega, fun _ => ⟨by omega, fun _ => ⟨by omega,
      fun _ => ⟨by omega, fun _ => ⟨rfl, rfl⟩⟩⟩⟩⟩

/-! ### What a step of a send reads and what it does to its surroundings -/

/-- Settles O29: which segment is next, and where the position goes after it, is found from the position, the
latches and the configuration. -/
theorem sequencerReadsOnlyItsOwnState : Obligations.SequencerReadsOnlyItsOwnState := by
  intro s t s' hbusy hphase hpos hlatch hconfig hstep
  have hsegs : currentSegs s = currentSegs t := by rw [currentSegs, currentSegs, hconfig, hlatch, hpos]
  have hseg' : currentSeg s = currentSeg t := by rw [currentSeg, currentSeg, hsegs, hpos]
  have hadvance : advance s = advance t := by rw [advance, advance, hsegs, hlatch, hpos]
  cases step_cases hstep with
  | waiting hp | responds hp | starts hp => exact absurd hp hbusy
  | write hp sg hseg =>
    exact ⟨_, .write s.latch.pin sg.1, step_write (hphase ▸ hp) (hseg' ▸ hseg), rfl, by simp [hlatch], rfl,
      fun _ => ⟨hpos, hlatch⟩⟩
  | wait hp sg hseg =>
    exact ⟨_, .wait (sg.2 * s.latch.period.toNat), step_wait (hphase ▸ hp) (hseg' ▸ hseg), rfl, by simp [hlatch],
      congrArg Prod.snd hadvance, fun _ => ⟨congrArg Prod.fst hadvance, hlatch⟩⟩
  | final hp =>
    exact ⟨_, .write s.latch.pin .low, step_final (hphase ▸ hp), rfl, by simp [hlatch], rfl,
      fun h => absurd rfl h⟩

/-- Every command's meaning begins by asking whether a send is in flight (60_exceptions.md R153). -/
theorem exec_busy (i : Instr) {s : State} (hbusy : s.phase ≠ .idle) : exec i s = .refused .commandWhileBusy := by
  cases i <;> exact accept_busy _ hbusy

/-- Settles O43: a command is refused, and the step is one of the sequencer's three. -/
theorem sendInFlightAcceptsNoCommand : Obligations.SendInFlightAcceptsNoCommand := by
  refine fun s hbusy => ⟨fun i => exec_busy i hbusy, fun t h => ⟨step_busy_inbox hbusy h, ?_⟩⟩
  cases step_cases h with
  | waiting hp | responds hp | starts hp => exact absurd hp hbusy
  | write _ sg => exact ⟨_, rfl, .inl ⟨sg.1, rfl⟩⟩
  | wait => exact ⟨_, rfl, .inr ⟨_, rfl⟩⟩
  | final => exact ⟨_, rfl, .inl ⟨.low, rfl⟩⟩

/-- Settles O56: WRITE and FINAL write the latched pin, WAIT writes none, and only FINAL returns. -/
theorem onlyTheSendsPinIsDriven : Obligations.OnlyTheSendsPinIsDriven := by
  intro s t h hbusy
  cases step_cases h with
  | waiting hp | responds hp | starts hp => exact absurd hp hbusy
  | write _ sg =>
    exact ⟨.inl ⟨sg.1, rfl, readPin_writePin_same _ _ _⟩, fun q hq => readPin_writePin_other _ _ hq,
      fun _ => rfl, fun h => by cases h⟩
  | wait =>
    refine ⟨.inr ⟨_, rfl, rfl⟩, fun _ _ => rfl, fun _ => rfl, fun hidle => ?_⟩
    rcases advance_phase s with ha | ha <;> cases ha.symm.trans hidle
  | final =>
    exact ⟨.inl ⟨.low, rfl, readPin_writePin_same _ _ _⟩, fun q hq => readPin_writePin_other _ _ hq,
      fun h => absurd rfl h, fun _ => ⟨rfl, readPin_writePin_same _ _ _⟩⟩

/-! ### A send in flight always goes on -/

/-- A position in range names a segment (10_state.md R24). -/
theorem currentSeg_of_inRange {s : State} (h : PositionInRange s) : ∃ sg, currentSeg s = some sg := by
  obtain ⟨-, hseg, -, -⟩ := h
  exact ⟨_, List.getElem?_eq_getElem hseg⟩

/-- A send in flight has a next step (41_transmitter.md R114). -/
theorem step_of_inFlight {s : State} (hbusy : s.phase ≠ .idle) (h : SendInFlight s) : ∃ t, step s = .next t := by
  obtain ⟨sg, hseg⟩ := currentSeg_of_inRange h.1
  cases hphase : s.phase with
  | idle => exact absurd hphase hbusy
  | write => exact ⟨_, step_write hphase hseg⟩
  | wait => exact ⟨_, step_wait hphase hseg⟩
  | final => exact ⟨_, step_final hphase⟩

/-- An idle step goes on, unless the next command's operands are of no format (30_encoding.md R71). -/
theorem step_of_idle {s : State} (hidle : s.phase = .idle) :
    (∃ t, step s = .next t) ∨
    step s = .refused .malformedOperands ∧
      ∃ c rest op, s.inbox = c :: rest ∧ decode c = .malformedOperands op := by
  cases hinbox : s.inbox with
  | nil => exact .inl ⟨s, step_idle_nil hidle hinbox⟩
  | cons c rest =>
    rw [step_idle_cons hidle hinbox]
    cases hc : decode c with
    | instr i =>
      rw [serve_instr hc]
      rcases exec_idle i with ⟨q, hq⟩ | ⟨-, a, ha⟩
      · exact .inl ⟨_, hq _ hidle⟩
      · exact .inl ⟨_, ha _ hidle⟩
    | reservedOp op => exact .inl ⟨_, serve_reserved ((decode_eq_reservedOp_iff c op).1 hc).2 c.operands hidle⟩
    | malformedOperands op => exact .inr ⟨serve_malformed hc _, c, rest, op, rfl, hc⟩

/-- Settles O54: a send in flight is in range, so it goes on; an idle step can only be refused. -/
theorem noRunFaultsOrHangs : Obligations.NoRunFaultsOrHangs := by
  intro s hs
  have hgoes : s.phase ≠ .idle → ∃ t, step s = .next t := fun hbusy => step_of_inFlight hbusy (hs.inFlight hbusy)
  by_cases hidle : s.phase = .idle
  · rcases step_of_idle hidle with ⟨t, ht⟩ | ⟨hrefused, hmalformed⟩
    · exact ⟨hgoes, by simp [ht], by simp [ht]⟩
    · refine ⟨hgoes, by simp [hrefused], fun r hr => ?_⟩
      obtain rfl : Refusal.malformedOperands = r := by simpa [hrefused] using hr
      exact ⟨rfl, hidle, hmalformed⟩
  · obtain ⟨t, ht⟩ := hgoes hidle
    exact ⟨hgoes, by simp [ht], by simp [ht]⟩

end Sys2Proof.Machine
end

section
/-! The sequencer against the plan (41_transmitter.md R109 to R113): the segments and the events a send in flight has
still to emit, how each step takes one event off them, and the run from RUN's start to the return. -/

namespace Sys2Proof.Machine

/-! ### The segments still to come -/

section
variable (w : TritWave) (la : Latches)

/-- The 13 elements of a body: the sync, then a waveform for each trit (41_transmitter.md R102). -/
def elements (t : Body) : List (List Seg) := sync :: t.toList.map (tritSegs w)

theorem elements_flatten (t : Body) : (elements w t).flatten = bodySegs w t := by
  rw [elements, bodySegs, List.flatten_cons, List.flatMap_def]

theorem elements_length (t : Body) : (elements w t).length = 13 := by
  rw [elements, List.length_cons, List.length_map, body_length]

/-- ELEM is the index of its element in the body (41_transmitter.md R110). -/
theorem elements_getElem? (tel : BitVec 1) {e : BitVec 4} (he : e.toNat ≤ 12) :
    (elements w (bodyAt la tel))[e.toNat]? = some (elemSegs w la tel e) := by
  unfold elemSegs
  split
  · next h0 => subst h0; rfl
  · next h0 =>
    have hpos : e.toNat ≠ 0 := fun h => h0 (BitVec.eq_of_toNat_eq h)
    obtain ⟨i, hi⟩ := Nat.exists_eq_succ_of_ne_zero hpos
    have hi' : i < 12 := by omega
    simp [elements, hi, hi']

/-- From an element on, the body is that element and the ones after it. -/
theorem elements_drop (tel : BitVec 1) {e : BitVec 4} (he : e.toNat ≤ 12) :
    (elements w (bodyAt la tel)).drop e.toNat =
      elemSegs w la tel e :: (elements w (bodyAt la tel)).drop (e.toNat + 1) := by
  obtain ⟨hlt, hget⟩ := List.getElem?_eq_some_iff.1 (elements_getElem? w la tel he)
  rw [List.drop_eq_getElem_cons hlt, hget]

/-- TEL is the index of its telegram in the send (10_state.md R25). -/
theorem latchedBodies_drop {tel : BitVec 1} (htel : tel.toNat < telegramCount la.ntel) :
    (latchedBodies la).drop tel.toNat = bodyAt la tel :: (latchedBodies la).drop (tel.toNat + 1) := by
  have htel' : tel = 0 ∨ tel = 1 := by bv_omega
  cases hn : la.ntel <;> rcases htel' with rfl | rfl <;> simp [latchedBodies, bodyAt, telegramCount, hn] at htel ⊢

/-- The segments of the telegrams after this one. -/
def afterTelegram (p : Position) : List Seg := plan w ((latchedBodies la).drop (p.tel.toNat + 1)) la.replog

/-- The segments after this body: its repeats to come, then the telegrams after it. -/
def afterBody (p : Position) : List Seg :=
  (List.replicate (repeats la.replog - (p.rep.toNat + 1)) (bodySegs w (bodyAt la p.tel))).flatten ++
    afterTelegram w la p

/-- The segments after this element: the elements to come of its body, then what is after the body. -/
def afterElement (p : Position) : List Seg :=
  ((elements w (bodyAt la p.tel)).drop (p.elem.toNat + 1)).flatten ++ afterBody w la p

/-- The segments after this one: those to come of its element, then what is after the element. -/
def afterSegment (p : Position) : List Seg :=
  (elemSegs w la p.tel p.elem).drop (p.seg.toNat + 1) ++ afterElement w la p

/-- The segments from this one on, to the end of the send. -/
def remaining (p : Position) : List Seg := (elemSegs w la p.tel p.elem).drop p.seg.toNat ++ afterElement w la p

variable {w la} {p : Position}

theorem remaining_eq_cons {sg : Seg} (h : (elemSegs w la p.tel p.elem)[p.seg.toNat]? = some sg) :
    remaining w la p = sg :: afterSegment w la p := by
  obtain ⟨hlt, rfl⟩ := List.getElem?_eq_some_iff.1 h
  rw [remaining, afterSegment, List.drop_eq_getElem_cons hlt, List.cons_append]

/-! At the first segment of an element, of a body, of a telegram, what remains is what is left of the level
above. -/

theorem remaining_at_element (hseg : p.seg = 0) (helem : p.elem.toNat ≤ 12) :
    remaining w la p = ((elements w (bodyAt la p.tel)).drop p.elem.toNat).flatten ++ afterBody w la p := by
  rw [elements_drop w la p.tel helem, List.flatten_cons, List.append_assoc, ← afterElement, remaining, hseg]
  rfl

theorem remaining_at_body (hseg : p.seg = 0) (helem : p.elem = 0) (hrep : p.rep.toNat < repeats la.replog) :
    remaining w la p =
      (List.replicate (repeats la.replog - p.rep.toNat) (bodySegs w (bodyAt la p.tel))).flatten ++
        afterTelegram w la p := by
  have hmore : repeats la.replog - p.rep.toNat = (repeats la.replog - (p.rep.toNat + 1)) + 1 := by omega
  rw [remaining_at_element hseg (by simp [helem]), helem, hmore, List.replicate_succ, List.flatten_cons,
    List.append_assoc, ← afterBody, ← elements_flatten]
  rfl

theorem remaining_at_telegram (hseg : p.seg = 0) (helem : p.elem = 0) (hrep : p.rep = 0)
    (htel : p.tel.toNat < telegramCount la.ntel) :
    remaining w la p = plan w ((latchedBodies la).drop p.tel.toNat) la.replog := by
  have hrep' : p.rep.toNat < repeats la.replog := by
    rw [hrep]
    exact (repeats_range la.replog).1
  rw [remaining_at_body hseg helem hrep', latchedBodies_drop la htel, plan_cons, hrep]
  rfl

/-! After the last segment of an element, of a body, of a telegram, nothing of that level is left. -/

theorem afterSegment_of_last_segment (h : ¬ p.seg.toNat + 1 < (elemSegs w la p.tel p.elem).length) :
    afterSegment w la p = afterElement w la p := by
  rw [afterSegment, List.drop_eq_nil_of_le (by omega), List.nil_append]

theorem afterElement_of_last_element (h : ¬ p.elem.toNat < 12) : afterElement w la p = afterBody w la p := by
  rw [afterElement, List.drop_eq_nil_of_le (by rw [elements_length]; omega)]
  rfl

theorem afterBody_of_last_repeat (h : ¬ p.rep.toNat + 1 < repeats la.replog) :
    afterBody w la p = afterTelegram w la p := by
  rw [afterBody, Nat.sub_eq_zero_of_le (by omega)]
  rfl

theorem latchedBodies_length : (latchedBodies la).length = telegramCount la.ntel := by
  cases hn : la.ntel <;> simp [latchedBodies, telegramCount, hn]

theorem afterTelegram_of_last_telegram (h : ¬ p.tel.toNat + 1 < telegramCount la.ntel) :
    afterTelegram w la p = [] := by
  rw [afterTelegram, List.drop_eq_nil_of_le (by rw [latchedBodies_length]; omega), plan_nil]

end

/-- An advance goes to the next segment of the send, or to FINAL when there is none (41_transmitter.md R112). -/
theorem remaining_advance {s : State} (hw : s.config.tritWave.Valid) (hs : PositionInRange s) :
    (advance s).2 = .write ∧
      remaining s.config.tritWave s.latch (advance s).1 = afterSegment s.config.tritWave s.latch s.pos ∨
    (advance s).2 = .final ∧ afterSegment s.config.tritWave s.latch s.pos = [] := by
  rcases advance_cases s with
    ⟨hmore, ha⟩ | ⟨hlast, ⟨hmore, ha⟩ | ⟨hlastElem, ⟨hmore, ha⟩ | ⟨hlastRep, ⟨hmore, ha⟩ |
      ⟨hlastTel, ha⟩⟩⟩⟩ <;> rw [ha]
  · refine .inl ⟨rfl, ?_⟩
    rw [remaining, afterSegment, seg_succ_toNat hw hs]
    rfl
  · refine .inl ⟨rfl, ?_⟩
    have helem := elem_succ_toNat hmore
    rw [afterSegment_of_last_segment hlast, remaining_at_element rfl (helem ▸ hmore), helem]
    rfl
  · refine .inl ⟨rfl, ?_⟩
    have hrep := rep_succ_toNat hmore
    rw [afterSegment_of_last_segment hlast, afterElement_of_last_element hlastElem,
      remaining_at_body rfl rfl (hrep ▸ hmore), hrep]
    rfl
  · refine .inl ⟨rfl, ?_⟩
    have htel := tel_succ_toNat hmore
    rw [afterSegment_of_last_segment hlast, afterElement_of_last_element hlastElem,
      afterBody_of_last_repeat hlastRep, remaining_at_telegram rfl rfl rfl (htel ▸ hmore), htel]
    rfl
  · refine .inr ⟨rfl, ?_⟩
    rw [afterSegment_of_last_segment hlast, afterElement_of_last_element hlastElem,
      afterBody_of_last_repeat hlastRep, afterTelegram_of_last_telegram hlastTel]

/-- RUN latches the bodies it is called with (41_transmitter.md R110). -/
theorem latchedBodies_startRun (a : RunArgs) (s : State) : latchedBodies (startRun a s).latch = runBodies a := by
  cases hb : a.bodyB <;> simp [latchedBodies, runBodies, hb]

/-- At RUN's start the whole plan remains. -/
theorem remaining_startRun (w : TritWave) (a : RunArgs) (s : State) :
    remaining w (startRun a s).latch (startRun a s).pos = plan w (runBodies a) a.replog := by
  have htel : (startRun a s).pos.tel.toNat < telegramCount (startRun a s).latch.ntel := (telegramCount_range _).1
  rw [remaining_at_telegram rfl rfl rfl htel, latchedBodies_startRun]
  rfl

/-! ### The events still to come -/

/-- The events a send in flight has still to emit: in WAIT the Write of its segment is already out. -/
def pending (s : State) : List Event :=
  match s.phase with
  | .idle => []
  | .write => events s.latch.pin s.latch.period (remaining s.config.tritWave s.latch s.pos)
  | .wait => (events s.latch.pin s.latch.period (remaining s.config.tritWave s.latch s.pos)).tail
  | .final => [.write s.latch.pin .low]

theorem pending_idle {s : State} (h : s.phase = .idle) : pending s = [] := by simp [pending, h]

theorem pending_write {s : State} {sg : Seg} (h : s.phase = .write) (hseg : currentSeg s = some sg) :
    pending s = .write s.latch.pin sg.1 :: .wait (sg.2 * s.latch.period.toNat) ::
      events s.latch.pin s.latch.period (afterSegment s.config.tritWave s.latch s.pos) := by
  simp only [pending, h]
  rw [remaining_eq_cons hseg, events_cons]

theorem pending_wait {s : State} {sg : Seg} (h : s.phase = .wait) (hseg : currentSeg s = some sg) :
    pending s = .wait (sg.2 * s.latch.period.toNat) ::
      events s.latch.pin s.latch.period (afterSegment s.config.tritWave s.latch s.pos) := by
  simp only [pending, h]
  rw [remaining_eq_cons hseg, events_cons, List.tail_cons]

theorem pending_final {s : State} (h : s.phase = .final) : pending s = [.write s.latch.pin .low] := by
  simp [pending, h]

/-- After a Wait the events of the segments after its own are to come (41_transmitter.md R112). -/
theorem pending_advance {s t : State} (hw : s.config.tritWave.Valid) (hs : PositionInRange s)
    (hpos : t.pos = (advance s).1) (hphase : t.phase = (advance s).2) (hlatch : t.latch = s.latch)
    (hconfig : t.config = s.config) :
    pending t = events s.latch.pin s.latch.period (afterSegment s.config.tritWave s.latch s.pos) := by
  rcases remaining_advance hw hs with ⟨ha, hrest⟩ | ⟨ha, hrest⟩
  · simp only [pending, hphase, ha, hpos, hlatch, hconfig, hrest]
  · rw [pending_final (hphase.trans ha), hrest, hlatch, events_nil]

/-- A send under a valid configuration, in flight or returned. -/
structure Sending (s : State) : Prop where
  valid : s.config.Valid
  inFlight : s.phase ≠ .idle → SendInFlight s
  returned : s.phase = .idle → s.response = some (.ok none)

/-- A send has events to come exactly while it is in flight. -/
theorem Sending.pending_eq_nil_iff {s : State} (h : Sending s) : pending s = [] ↔ s.phase = .idle := by
  refine ⟨fun hnil => ?_, pending_idle⟩
  by_contra hbusy
  obtain ⟨sg, hseg⟩ := currentSeg_of_inRange (h.inFlight hbusy).1
  cases hphase : s.phase with
  | idle => exact hbusy hphase
  | write => simp [pending_write hphase hseg] at hnil
  | wait => simp [pending_wait hphase hseg] at hnil
  | final => simp [pending_final hphase] at hnil

/-- From `s` to `t` exactly the events `es` were emitted, off the front of those to come. -/
structure Emitted (s : State) (es : List Event) (t : State) : Prop where
  trace : t.trace = s.trace ++ es
  pinlvl : t.pinlvl = es.foldl pinAfter s.pinlvl
  config : t.config = s.config
  inbox : t.inbox = s.inbox
  pending : pending s = es ++ pending t

theorem Emitted.refl (s : State) : Emitted s [] s where
  trace := (List.append_nil _).symm
  pinlvl := rfl
  config := rfl
  inbox := rfl
  pending := rfl

theorem Emitted.trans {s t u : State} {es fs : List Event} (h : Emitted s es t) (h' : Emitted t fs u) :
    Emitted s (es ++ fs) u where
  trace := by rw [h'.trace, h.trace, List.append_assoc]
  pinlvl := by rw [h'.pinlvl, h.pinlvl, List.foldl_append]
  config := h'.config.trans h.config
  inbox := h'.inbox.trans h.inbox
  pending := by rw [h.pending, h'.pending, List.append_assoc]

/-- Each step of a send in flight emits the first of the events to come (41_transmitter.md R109). -/
theorem step_emits {s : State} (h : Sending s) (hbusy : s.phase ≠ .idle) :
    ∃ e t, step s = .next t ∧ Emitted s [e] t ∧ Sending t := by
  have hflight : SendInFlight s := h.inFlight hbusy
  obtain ⟨hrange, hnone, -⟩ := hflight
  obtain ⟨sg, hseg⟩ := currentSeg_of_inRange hrange
  cases hphase : s.phase with
  | idle => exact absurd hphase hbusy
  | write =>
    have hrest := pending_wait (s := { emit (.write s.latch.pin sg.1) s with phase := .wait }) rfl hseg
    refine ⟨_, _, step_write hphase hseg,
      ⟨rfl, rfl, rfl, rfl, (pending_write hphase hseg).trans (congrArg (_ :: ·) hrest.symm)⟩,
      ⟨h.valid, fun _ => ⟨hrange, hnone, fun hf => by cases hf⟩, fun hi => by cases hi⟩⟩
  | wait =>
    have hrest := pending_advance h.valid.1 hrange
      (t := { emit (.wait (sg.2 * s.latch.period.toNat)) s with pos := (advance s).1, phase := (advance s).2 })
      rfl rfl rfl rfl
    refine ⟨_, _, step_wait hphase hseg,
      ⟨rfl, rfl, rfl, rfl, (pending_wait hphase hseg).trans (congrArg (_ :: ·) hrest.symm)⟩,
      ⟨h.valid, fun _ => sendInFlight_advance h.valid (h.inFlight hbusy) rfl rfl rfl rfl rfl, fun hi => ?_⟩⟩
    rcases advance_phase s with ha | ha <;> cases ha.symm.trans hi
  | final =>
    refine ⟨_, _, step_final hphase, ⟨rfl, rfl, rfl, rfl, ?_⟩, ⟨h.valid, absurd rfl, fun _ => rfl⟩⟩
    rw [pending_final hphase, pending_idle (seqFinal_phase s)]
    rfl

/-- k steps of a send emit the first k of the events to come (41_transmitter.md R109). -/
theorem run_emits {k : Nat} {s : State} (h : Sending s) (hk : k ≤ (pending s).length) :
    ∃ t, run k s = .next t ∧ Emitted s ((pending s).take k) t ∧ Sending t := by
  induction k generalizing s with
  | zero => exact ⟨s, rfl, Emitted.refl s, h⟩
  | succ k ih =>
    have hbusy : s.phase ≠ .idle := fun hidle => by simp [pending_idle hidle] at hk
    obtain ⟨e, u, hstep, hfirst, hu⟩ := step_emits h hbusy
    have hpending : pending s = e :: pending u := hfirst.pending
    obtain ⟨t, hrun, hrest, ht⟩ := ih hu (by simpa [hpending] using hk)
    refine ⟨t, (run_succ hstep).trans hrun, ?_, ht⟩
    rw [hpending, List.take_succ_cons]
    exact hfirst.trans hrest

/-! ### The run of a send -/

theorem sending_startRun (a : RunArgs) {s : State} (hvalid : s.config.Valid) : Sending (startRun a s) where
  valid := hvalid
  inFlight := fun _ => startRun_inFlight a s
  returned := fun h => by cases h

/-- At RUN's start the events of the big-step form are to come. -/
theorem pending_startRun (a : RunArgs) (s : State) : pending (startRun a s) = runEvents s.config.tritWave a := by
  simp only [pending, startRun_phase, startRun_config, remaining_startRun]
  rfl

theorem runEvents_length (w : TritWave) (a : RunArgs) : (runEvents w a).length = runSteps w a :=
  events_length _ _ _

/-- Settles O28: at RUN's start all planned events are to come, and each step emits the next of them. -/
theorem sequencerEmitsExactlyThePlannedEvents : Obligations.SequencerEmitsExactlyThePlannedEvents := by
  intro a s _ hvalid
  refine ⟨fun k hk => ?_, runEvents_length _ a, fun S hS => ?runSteps⟩
  case runSteps =>
    rw [runSteps, plan_length_of_uniform hS]
    ring
  rw [← runEvents_length, ← pending_startRun] at hk ⊢
  obtain ⟨t, hrun, hemitted, ht⟩ := run_emits (sending_startRun a hvalid) hk
  have hdone : t.phase = .idle ↔ k = (pending (startRun a s)).length := by
    have hlength := congrArg List.length hemitted.pending
    rw [List.length_append, List.length_take, min_eq_left hk] at hlength
    rw [← ht.pending_eq_nil_iff, ← List.length_eq_zero_iff]
    omega
  refine ⟨t, hrun, hemitted.trace, hdone, ?_, hemitted.config, hemitted.inbox⟩
  split
  · next hlast => exact ht.returned (hdone.2 hlast)
  · next hmore =>
    obtain ⟨-, hnone, -⟩ := ht.inFlight (mt hdone.1 hmore)
    exact hnone

end Sys2Proof.Machine
end

section
/-! The send commands (41_transmitter.md R106 to R108): what starts RUN and what is rejected, the run to the return,
and the measures of R115 and R116. -/

namespace Sys2Proof.Machine

/-! ### The pins after a send -/

/-- A send closes with its pin LOW (41_transmitter.md R105). -/
theorem readPin_after_events_same (pin : PinId) (p : Period9) (segs : List Seg) (m : PinMap) :
    readPin ((events pin p segs).foldl pinAfter m) pin = some .low := by
  rw [events, List.foldl_append]
  exact readPin_writePin_same _ pin .low

/-- A send writes no pin but its own (41_transmitter.md R120). -/
theorem readPin_after_events_other {pin q : PinId} (hq : q ≠ pin) (p : Period9) (segs : List Seg) (m : PinMap) :
    readPin ((events pin p segs).foldl pinAfter m) q = readPin m q := by
  induction segs generalizing m with
  | nil => exact readPin_writePin_other m .low hq
  | cons sg segs ih =>
    rw [events_cons, List.foldl_cons, List.foldl_cons, ih]
    exact readPin_writePin_other m sg.1 hq

/-- From RUN's start the block emits the planned events and returns (OK, ·), with the pin LOW and every other pin
as before (41_transmitter.md R109, R113, R120). -/
theorem run_to_return (a : RunArgs) {s : State} (hvalid : s.config.Valid) :
    ∃ u, run (runSteps s.config.tritWave a) (startRun a s) = .next u ∧
      u.trace = s.trace ++ runEvents s.config.tritWave a ∧
      u.phase = .idle ∧ u.response = some (.ok none) ∧ u.config = s.config ∧ u.inbox = s.inbox ∧
      readPin u.pinlvl a.pin = some .low ∧ ∀ q, q ≠ a.pin → readPin u.pinlvl q = readPin s.pinlvl q := by
  rw [← runEvents_length, ← pending_startRun]
  obtain ⟨u, hrun, hemitted, hu⟩ := run_emits (sending_startRun a hvalid) le_rfl
  rw [List.take_length] at hemitted
  have hidle : u.phase = .idle := hu.pending_eq_nil_iff.1 (List.self_eq_append_right.1 hemitted.pending)
  have hpins : u.pinlvl = (runEvents s.config.tritWave a).foldl pinAfter s.pinlvl := by
    rw [← pending_startRun]
    exact hemitted.pinlvl
  refine ⟨u, hrun, hemitted.trace, hidle, hu.returned hidle, hemitted.config, hemitted.inbox, ?_, fun q hq => ?_⟩
  · rw [hpins]
    exact readPin_after_events_same ..
  · rw [hpins]
    exact readPin_after_events_other hq ..

/-! ### SEND_TRITS -/

@[simp] theorem sendTritsArgs_toList (t : Body) (p : Period9) (r : Rep3) (pin : PinId) :
    sendTritsArgs t.toList p.toNat r.toNat pin = .ok ⟨pin, p, r, t, none⟩ := by
  simp [sendTritsArgs]

/-- A send command whose checks pass in IDLE starts RUN (41_transmitter.md R106 to R108). -/
theorem accept_launch_ok {r : Except Reject RunArgs} {a : RunArgs} (hr : r = .ok a) {s : State}
    (hidle : s.phase = .idle) : accept s (launch r s) = .next (startRun a s) := by
  rw [hr, launch_ok, accept_idle _ hidle]

/-- Settles O30: operands in range pass all checks; else the first cause is the one the guards leave. -/
theorem sendTritsSendsItsTrits : Obligations.SendTritsSendsItsTrits := by
  intro s hidle hvalid
  refine ⟨fun t p r pin => ⟨accept_launch_ok (sendTritsArgs_toList t p r pin) hidle,
    run_to_return ⟨pin, p, r, t, none⟩ hvalid⟩, fun trits period replog pin => ⟨?_, ?_, ?_⟩⟩
  · intro hlength
    exact exec_rejected hidle (by simp [causes, legalTrits, hlength])
  · intro hlength hperiod
    exact exec_rejected hidle (by simp [causes, legalTrits, legalPeriod, hlength, hperiod.not_ge])
  · intro hlength hperiod hreplog
    exact exec_rejected hidle
      (by simp [causes, legalTrits, legalPeriod, legalReplog, hlength, hperiod, hreplog.not_ge])

/-! ### SEND_PACKED -/

theorem sendPackedArgs_ok {w : Word32} {t : Body} (h : replay (payloadOf w) = some t) (pin : PinId) :
    sendPackedArgs w pin = .ok ⟨pin, periodOf w, replogOf w, t, none⟩ := by
  simp [sendPackedArgs, replayOperand_ok h]

/-- The pairs of bits 19:0 of a word are the base-4 digits of its payload (41_transmitter.md R107). -/
theorem payloadPair_toNat (w : Word32) {i : Nat} (hi : i < 10) :
    (w.extractLsb' (2 * i) 2).toNat = w.toNat % 2 ^ 20 / 4 ^ i % 4 := by
  have hpair : w.extractLsb' (2 * i) 2 = (payloadOf w).extractLsb' (2 * i) 2 := by
    rw [payloadOf, BitVec.extractLsb'_extractLsb'_of_le (by omega)]
  rw [hpair, BitVec.extractLsb'_toNat, Nat.shiftRight_eq_div_pow, payloadOf_toNat, Nat.pow_mul]

/-- A payload is legal exactly when no pair of bits at an even offset is 0b01 (41_transmitter.md R107). -/
theorem legalPayload_iff_pairs (w : Word32) :
    legalPayload (w.toNat % 2 ^ 20) = true ↔ ¬ ∃ i < 10, w.extractLsb' (2 * i) 2 = 0b01#2 := by
  have hpair : ∀ i < 10, (w.extractLsb' (2 * i) 2 = 0b01#2 ↔ w.toNat % 2 ^ 20 / 4 ^ i % 4 = 1) := by
    intro i hi
    rw [← BitVec.toNat_inj, payloadPair_toNat w hi]
    rfl
  simp only [legalPayload, List.all_eq_true, List.mem_range, bne_iff_ne, not_exists, not_and]
  exact forall₂_congr fun i hi => not_congr (hpair i hi).symm

/-- Settles O31: a word's payload replays exactly when no pair is 0b01, and nothing else is checked. -/
theorem sendPackedReplaysTheWord : Obligations.SendPackedReplaysTheWord := by
  intro s hidle hvalid w pin
  refine ⟨fun hpair => ?_, fun hpairs => ?_⟩
  · have hillegal : ¬ legalPayload (w.toNat % 2 ^ 20) = true := fun h => (legalPayload_iff_pairs w).1 h hpair
    exact exec_rejected hidle (congrArg List.head? (if_neg hillegal))
  · have hlegal : legalPayload (payloadOf w).toNat = true := by
      rw [payloadOf_toNat]
      exact (legalPayload_iff_pairs w).2 hpairs
    obtain ⟨t, ht⟩ := Option.ne_none_iff_exists'.1 fun hnone =>
      (replay_eq_none_iff_not_legalPayload (payloadOf w)).1 hnone hlegal
    obtain ⟨-, -, htrits⟩ := replayDecodesTwelveCodes (payloadOf w)
    obtain ⟨hlow0, hlow1, -⟩ := htrits t ht
    exact ⟨t, ht, hlow0, hlow1, accept_launch_ok (sendPackedArgs_ok ht pin) hidle,
      run_to_return ⟨pin, periodOf w, replogOf w, t, none⟩ hvalid⟩

/-! ### SEND_PAIR -/

theorem sendPairArgs_ok {pa pb : Payload20} {ta tb : Body} (ha : replay pa = some ta) (hb : replay pb = some tb)
    (p : Period9) (r : Rep3) (pin : PinId) :
    sendPairArgs pa.toNat pb.toNat p.toNat r.toNat pin = .ok ⟨pin, p, r, ta, some tb⟩ := by
  simp [sendPairArgs, replayOperand_ok ha, replayOperand_ok hb]

/-- A payload operand in range that does not replay is not legal (30_encoding.md R63). -/
theorem not_legalPayload_of_replay {n : Nat} (hn : n ≤ 0xFFFFF) (h : replay (BitVec.ofNat 20 n) = none) :
    legalPayload n = false := by
  have hillegal := (replay_eq_none_iff_not_legalPayload _).1 h
  rwa [BitVec.toNat_ofNat, Nat.mod_eq_of_lt (by omega), Bool.not_eq_true] at hillegal

/-- Settles O32: two replayable payloads pass all checks and both are latched; else the first cause is the one the
guards leave. -/
theorem sendPairSendsBothPayloads : Obligations.SendPairSendsBothPayloads := by
  intro s hidle hvalid
  refine ⟨fun pa pb ta tb p r pin ha hb => ⟨accept_launch_ok (sendPairArgs_ok ha hb p r pin) hidle, ?_⟩,
    fun pa pb period replog pin => ⟨?_, ?_, ?_, ?_⟩⟩
  · obtain ⟨-, hplan⟩ := planRepeatsEachTelegramInTurn s.config.tritWave ta tb r
    rw [← hplan]
    exact run_to_return ⟨pin, p, r, ta, some tb⟩ hvalid
  · intro hperiod
    exact exec_rejected hidle (by simp [causes, legalPeriod, hperiod.not_ge])
  · intro hperiod hreplog
    exact exec_rejected hidle (by simp [causes, legalPeriod, legalReplog, hperiod, hreplog.not_ge])
  · intro hperiod hreplog hrange
    have hrange' : ¬ (pa ≤ 0xFFFFF ∧ pb ≤ 0xFFFFF) := by omega
    exact exec_rejected hidle (by rw [causes, if_neg hrange']; simp [legalPeriod, legalReplog, hperiod, hreplog])
  · intro hperiod hreplog hpa hpb hreplay
    have hillegal : (legalPayload pa && legalPayload pb) = false := Bool.and_eq_false_iff.2
      (hreplay.imp (not_legalPayload_of_replay hpa) (not_legalPayload_of_replay hpb))
    exact exec_rejected hidle
      (by simp only [causes, hillegal]; simp [legalPeriod, legalReplog, hperiod, hreplog, hpa, hpb])

/-! ### The measures of a send -/

/-- A command that leaves the block in WRITE has started RUN (41_transmitter.md R110). -/
theorem exec_started {i : Instr} {s t : State} (hidle : s.phase = .idle) (h : exec i s = .next t)
    (hphase : t.phase = .write) : ∃ a, t = startRun a s := by
  rcases exec_next h with ⟨q, rfl⟩ | ⟨-, ha⟩
  · cases hidle.symm.trans hphase
  · exact ha

/-- Settles O33: every body takes 104 periods, whatever its trits. -/
theorem sendDurationDoesNotDependOnItsData : Obligations.SendDurationDoesNotDependOnItsData := by
  intro i s t hidle hvalid h hphase
  obtain ⟨a, rfl⟩ := exec_started hidle h hphase
  obtain ⟨u, hrun, htrace, hidle', -⟩ := run_to_return a hvalid
  refine ⟨_, u, _, hrun, hidle', htrace, ?_⟩
  rw [runEvents, waitSum_events, plan_totalPeriods hvalid.1, startRun_telegramCount, startRun_replog,
    startRun_period, repeats]
  ring

/-- Segments that come in pulses, each HIGH and then LOW, as the default waveforms and the sync do
(41_transmitter.md R100, R101). -/
inductive PulseTrain : List Seg → Prop
  | nil : PulseTrain []
  | cons (high low : Nat) {segs : List Seg} (h : PulseTrain segs) :
    PulseTrain ((.high, high) :: (.low, low) :: segs)

theorem PulseTrain.append {a b : List Seg} (ha : PulseTrain a) (hb : PulseTrain b) : PulseTrain (a ++ b) := by
  induction ha with
  | nil => exact hb
  | cons high low _ ih => exact .cons high low ih

theorem PulseTrain.flatten {l : List (List Seg)} (h : ∀ segs ∈ l, PulseTrain segs) : PulseTrain l.flatten := by
  induction l with
  | nil => exact .nil
  | cons segs l ih =>
    exact (h segs List.mem_cons_self).append (ih fun segs' hmem => h segs' (List.mem_cons_of_mem _ hmem))

/-- A default waveform is one pulse (41_transmitter.md R101). -/
theorem tritSegs_default_pulse (x : Trit) : PulseTrain (tritSegs TritWave.default x) := by
  cases x <;> exact .cons _ _ .nil

theorem bodySegs_default_pulse (t : Body) : PulseTrain (bodySegs TritWave.default t) := by
  refine (PulseTrain.cons _ _ .nil).append (.flatten fun segs hsegs => ?_)
  obtain ⟨x, -, rfl⟩ := List.mem_map.1 hsegs
  exact tritSegs_default_pulse x

theorem plan_default_pulse (bodies : List Body) (r : Rep3) : PulseTrain (plan TritWave.default bodies r) := by
  refine .flatten fun segs hsegs => ?_
  obtain ⟨t, -, rfl⟩ := List.mem_map.1 hsegs
  exact .flatten fun segs' hsegs' => List.eq_of_mem_replicate hsegs' ▸ bodySegs_default_pulse t

/-- From LOW every Write of a pulse train changes the level, but the closing one (41_transmitter.md R116). -/
theorem levelChanges_events {segs : List Seg} (h : PulseTrain segs) (pin : PinId) (p : Period9) :
    levelChanges pin .low (events pin p segs) = segs.length := by
  induction h with
  | nil => simp [levelChanges]
  | cons high low _ ih =>
    simp [events_cons, levelChanges, ih]
    omega

/-- Under the default TRIT_WAVE a body has 26 segments (41_transmitter.md R116). -/
theorem bodySegs_default_length (t : Body) : (bodySegs TritWave.default t).length = 26 := by
  have hpulses : t.toList.map (fun x => (tritSegs TritWave.default x).length) = List.replicate t.toList.length 2 :=
    List.map_eq_replicate_iff.2 fun x _ => by cases x <;> rfl
  rw [bodySegs_length, hpulses, List.sum_replicate, body_length]
  rfl

theorem plan_default_length (bodies : List Body) (r : Rep3) :
    (plan TritWave.default bodies r).length = 26 * bodies.length * 2 ^ r.toNat := by
  rw [plan_length_of_uniform fun t _ => bodySegs_default_length t]
  ring

/-- Settles O34: one Write and one Wait for each segment of the plan, and the closing Write. -/
theorem sendEventCounts : Obligations.SendEventCounts := by
  intro i s t hidle hvalid h hphase
  obtain ⟨a, rfl⟩ := exec_started hidle h hphase
  obtain ⟨u, hrun, htrace, hidle', -⟩ := run_to_return a hvalid
  refine ⟨_, u, _, hrun, hidle', htrace, ?_, ?_, fun hdefault => ?_⟩
  · simp only [runEvents, writeCount_events, plan_length, bodySegs_length, latchedBodies_startRun, startRun_replog]
  · rw [runEvents, waitCount_events, writeCount_events, Nat.add_sub_cancel]
  · rw [hdefault, runEvents, startRun_telegramCount, startRun_replog, startRun_pin, writeCount_events,
      levelChanges_events (plan_default_pulse _ _), plan_default_length]
    exact ⟨rfl, rfl⟩

end Sys2Proof.Machine
end

section
/-! The packed path against the direct one (41_transmitter.md R119): packing loses trits 0 and 1, and from a period of
1 microsecond on the events tell every other list of trits apart. -/

namespace Sys2Proof.Machine

/-! ### What SEND_PACKED replays of a packed list -/

theorem replayCode_eq_extract (pl : Payload20) (i : Nat) : replayCode pl i = pl.extractLsb' (22 - 2 * i) 2 := by
  apply BitVec.eq_of_toNat_eq
  rw [replayCode_toNat, BitVec.extractLsb'_toNat, Nat.shiftRight_eq_div_pow]

/-- A payload whose codes are those of 12 trits replays them (30_encoding.md R66). -/
theorem replay_of_codes {pl : Payload20} {b : Body}
    (h : ∀ (i : Nat) (hi : i < 12), replayCode pl i = tritCode b[i]) : replay pl = some b := by
  cases hb : replay pl with
  | none =>
    obtain ⟨i, hi, hreserved⟩ := (replay_eq_none_iff pl).1 hb
    rw [← tritOfCode_eq_none_iff, h i hi, tritOfCode_tritCode] at hreserved
    cases hreserved
  | some b' =>
    refine congrArg some (Vector.ext fun i hi => Option.some.inj ?_)
    rw [← replay_trit hb hi, h i hi, tritOfCode_tritCode]

/-- The payload of a list replays it with trits 0 and 1 LOW (30_encoding.md R65, R66). -/
theorem replay_payload20 (t : Body) : replay (payload20 t) = some ((t.set 0 .low).set 1 .low) := by
  refine replay_of_codes fun i hi => ?_
  by_cases hkept : 2 ≤ i
  · rw [replayCode_eq_extract, payload20_code t hi hkept, Vector.getElem_set_ne _ _ (by omega),
      Vector.getElem_set_ne _ _ (by omega)]
  · rw [replayCode_high _ (by omega)]
    obtain rfl | rfl : i = 0 ∨ i = 1 := by omega
    all_goals simp [tritCode]

/-- The two send commands check their operands to the same RUN (41_transmitter.md R119). -/
theorem sendPackedArgs_telegram (t : Body) (p : Period9) (r : Rep3) (pin : PinId) :
    sendPackedArgs (telegram p r (payload20 t)) pin =
      sendTritsArgs ((t.set 0 .low).set 1 .low).toList p.toNat r.toNat pin := by
  have hreplay : replay (payloadOf (telegram p r (payload20 t))) = some ((t.set 0 .low).set 1 .low) := by
    rw [payloadOf_telegram, replay_payload20]
  rw [sendPackedArgs_ok hreplay, sendTritsArgs_toList, periodOf_telegram, replogOf_telegram]

/-- Settles O35: commands with the same checked operands do the same. -/
theorem packedPathSendsTheListWithTwoTritsLow : Obligations.PackedPathSendsTheListWithTwoTritsLow := by
  intro t p r pin s
  exact ⟨telegram p r (payload20 t), pack_toList t p r,
    congrArg (fun args => accept s (launch args s)) (sendPackedArgs_telegram t p r pin)⟩

/-! ### What the events of a send determine -/

/-- With a period of at least 1 the events determine the segments (41_transmitter.md R104). -/
theorem events_injective {pin : PinId} {p : Period9} (hp : p ≠ 0) {a b : List Seg}
    (h : events pin p a = events pin p b) : a = b := by
  have hpos : 0 < p.toNat := Nat.pos_of_ne_zero fun h0 => hp (BitVec.eq_of_toNat_eq h0)
  induction a generalizing b with
  | nil =>
    cases b with
    | nil => rfl
    | cons y ys => simp [events_cons] at h
  | cons x xs ih =>
    cases b with
    | nil => simp [events_cons] at h
    | cons y ys =>
      simp only [events_cons, List.cons.injEq, Event.write.injEq, Event.wait.injEq, true_and] at h
      obtain ⟨hlevel, hwait, hrest⟩ := h
      rw [ih hrest, Prod.ext hlevel (Nat.eq_of_mul_eq_mul_right hpos hwait)]

theorem levelSequence_append (a b : List Seg) : levelSequence (a ++ b) = levelSequence a ++ levelSequence b :=
  List.flatMap_append

theorem levelSequence_length (segs : List Seg) : (levelSequence segs).length = totalPeriods segs := by
  simp [levelSequence, totalPeriods, List.length_flatMap]

/-- The level sequences of the three waveforms tell the trits apart (00_scope.md R6 (b)). -/
theorem trit_eq_of_levelSequence {w : TritWave} (hw : w.Valid) {x y : Trit}
    (h : levelSequence (tritSegs w x) = levelSequence (tritSegs w y)) : x = y := by
  obtain ⟨-, ⟨hlh, hlf, hhf⟩, -⟩ := hw
  cases x <;> cases y <;> simp [tritSegs, hlh, hlf, hhf, hlh.symm, hlf.symm, hhf.symm] at h ⊢

/-- Every waveform takes 6 periods, so the level sequence of a list of trits is read back 6 levels a trit. -/
theorem trits_eq_of_levelSequence {w : TritWave} (hw : w.Valid) {l m : List Trit} (hlength : l.length = m.length)
    (h : levelSequence (l.flatMap (tritSegs w)) = levelSequence (m.flatMap (tritSegs w))) : l = m := by
  induction l generalizing m with
  | nil => exact (List.length_eq_zero_iff.1 hlength.symm).symm
  | cons x xs ih =>
    obtain ⟨y, ys, rfl⟩ := List.exists_cons_of_length_eq_add_one hlength.symm
    simp only [List.flatMap_cons, levelSequence_append] at h
    obtain ⟨hfirst, hrest⟩ := List.append_inj h (by simp [levelSequence_length, tritSegs_totalPeriods hw])
    rw [trit_eq_of_levelSequence hw hfirst, ih (Nat.succ.inj hlength) hrest]

/-- The level sequence of a body determines its trits. -/
theorem body_eq_of_levelSequence {w : TritWave} (hw : w.Valid) {t u : Body}
    (h : levelSequence (bodySegs w t) = levelSequence (bodySegs w u)) : t = u := by
  rw [bodySegs, bodySegs, levelSequence_append, levelSequence_append, List.append_cancel_left_eq] at h
  exact Vector.toList_inj.1 (trits_eq_of_levelSequence hw (by simp) h)

/-- The first repeat of a plan is a whole body, 104 periods long, so a plan determines its trits. -/
theorem body_eq_of_plan {w : TritWave} (hw : w.Valid) {t u : Body} {r : Rep3} (h : plan w [t] r = plan w [u] r) :
    t = u := by
  obtain ⟨n, hn⟩ : ∃ n, repeats r = n + 1 := Nat.exists_eq_add_of_le' (repeats_range r).1
  have hlevels := congrArg levelSequence h
  simp only [plan_cons, hn, List.replicate_succ, List.flatten_cons, levelSequence_append, List.append_assoc] at hlevels
  obtain ⟨hbody, -⟩ := List.append_inj hlevels (by simp [levelSequence_length, bodySegs_totalPeriods hw])
  exact body_eq_of_levelSequence hw hbody

/-- Setting trits 0 and 1 LOW changes nothing exactly when they are. -/
theorem set_low_eq_self_iff (t : Body) : (t.set 0 .low).set 1 .low = t ↔ t[0] = .low ∧ t[1] = .low := by
  refine ⟨fun h => ?_, fun ⟨h0, h1⟩ => ?_⟩
  · rw [← h]
    simp
  · rw [← h0, Vector.set_getElem_self, ← h1.trans h0.symm, Vector.set_getElem_self]

/-- Settles O36: equal events come from equal plans, and equal plans from equal trits. -/
theorem pathsAgreeExactlyWhenTwoTritsAreLow : Obligations.PathsAgreeExactlyWhenTwoTritsAreLow := by
  intro w t p r pin hw hp
  rw [← set_low_eq_self_iff]
  exact ⟨fun h => body_eq_of_plan hw (events_injective hp h), fun h => by rw [h]⟩

/-- Refutes O37: at period 0 under the default TRIT_WAVE, 12 HIGH trits emit what they emit with trits 0 and 1
LOW, for each waveform is HIGH and then LOW and every Wait is of 0. -/
theorem not_pathsAgreeExactlyWhenTwoTritsAreLowAtEveryPeriod :
    ¬ Obligations.PathsAgreeExactlyWhenTwoTritsAreLowAtEveryPeriod := by
  intro h
  obtain ⟨-, hagree⟩ := h TritWave.default (Vector.replicate 12 .high) 0 0 ⟨0⟩ tritWaveDefault_valid
  have hsame : runEvents TritWave.default
        ⟨⟨0⟩, 0, 0, ((Vector.replicate 12 .high).set 0 .low).set 1 .low, none⟩ =
      runEvents TritWave.default ⟨⟨0⟩, 0, 0, Vector.replicate 12 .high, none⟩ := by decide
  exact absurd (hagree.1 hsame) (by decide)

end Sys2Proof.Machine
end

section
/-! Rejections: the codes a command can raise, and the trace they do not leave (60_exceptions.md R141 to R143). -/

namespace Sys2Proof.Machine

/-- One check has one cause to report, or none. -/
theorem check_causes_sublist (legal : Prop) [Decidable legal] (c : Reject) :
    List.Sublist (if legal then [] else [c]) [c] := by
  split
  · exact List.nil_sublist [c]
  · exact List.Sublist.refl [c]

/-- The causes that apply to a command are of its row of R143's table, in the row's order. -/
theorem causes_sublist_possibleCauses (i : Instr) : List.Sublist (causes i) (possibleCauses i) := by
  cases i with
  | pack | sendTrits =>
    exact ((check_causes_sublist _ .tritCount).append (check_causes_sublist _ .periodRange)).append
      (check_causes_sublist _ .repeatRange)
  | unpack | sameCode => exact List.Sublist.refl []
  | sendPacked => exact check_causes_sublist _ .reservedCode
  | sendPair =>
    exact (((check_causes_sublist _ .periodRange).append (check_causes_sublist _ .repeatRange)).append
      (check_causes_sublist _ .payloadRange)).append (check_causes_sublist _ .reservedCode)

/-- A command that answers a rejection was taken in IDLE, and the rejection is its first cause: the converse of
`exec_rejected` (60_exceptions.md R144). -/
theorem firstCause_of_exec_rejected {i : Instr} {s t : State} {c : Reject} (h : exec i s = .next t)
    (hrejected : t.response = some (.rejected c)) : s.phase = .idle ∧ (causes i).head? = some c := by
  obtain ⟨hidle, -⟩ := exec_cases h
  refine ⟨hidle, ?_⟩
  obtain ⟨hlegal, hillegal⟩ := exec_answersFirst i hidle
  cases hcauses : causes i with
  | nil =>
    obtain ⟨u, hu, haccepted⟩ := hlegal hcauses
    cases hu.symm.trans h
    exact absurd hrejected (haccepted c)
  | cons d rest =>
    cases (hillegal d rest hcauses).symm.trans h
    cases hrejected
    rfl

/-- No command reads the result of the one before it: its own overwrites it, and so does RUN's start. -/
theorem exec_respond (j : Instr) (q : Response) (s : State) : exec j (respond q s) = exec j s := by
  by_cases hidle : s.phase = .idle
  · have hidle' : (respond q s).phase = .idle := hidle
    rcases exec_idle j with ⟨q', hreturns⟩ | ⟨-, a, hstarts⟩
    · rw [hreturns _ hidle', hreturns s hidle]
      rfl
    · rw [hstarts _ hidle', hstarts s hidle]
      rfl
  · have hbusy : (respond q s).phase ≠ .idle := hidle
    rw [exec_busy j hbusy, exec_busy j hidle]

/-- Settles O40: the cause reported is one that applies, and those are of the row; a reserved selector has one. -/
theorem onlyTheRowsOwnCausesAreRaised : Obligations.OnlyTheRowsOwnCausesAreRaised := by
  refine ⟨fun i s t c h hrejected => ?_, fun op operands s t c hop h hrejected => ?_⟩
  · obtain ⟨-, hfirst⟩ := firstCause_of_exec_rejected h hrejected
    exact (causes_sublist_possibleCauses i).mem (List.mem_of_head? hfirst)
  · obtain ⟨hidle, -⟩ := serve_cases h
    cases (serve_reserved hop operands hidle).symm.trans h
    cases hrejected
    rfl

/-- Settles O41: the command was rejected for its first cause, which changes the result only, and no command reads
the result. -/
theorem rejectionLeavesNoTrace : Obligations.RejectionLeavesNoTrace := by
  intro i s t c h hrejected
  obtain ⟨hidle, hfirst⟩ := firstCause_of_exec_rejected h hrejected
  cases (exec_rejected hidle hfirst).symm.trans h
  exact ⟨rfl, fun j => exec_respond j (.rejected c) s⟩

/-- Settles O38: the code of OK is that of any value, and each rejection has its own. -/
theorem statusCodesAreThoseOfTheTable : Obligations.StatusCodesAreThoseOfTheTable :=
  ⟨fun _ => rfl, rfl, rfl, rfl, rfl, rfl, rfl⟩

end Sys2Proof.Machine
end

section
/-! The longest Wait of a send, and a reset by the host (70_reset_and_hazards.md R160, R161, R171). -/

namespace Sys2Proof.Machine

/-! ### Reset by the host -/

theorem hostReset_idle {s : State} (h : s.phase = .idle) :
    hostReset s = .next { State.resetOf s.config with inbox := s.inbox, freeCount := s.freeCount } := if_pos h

theorem hostReset_busy {s : State} (h : s.phase ≠ .idle) : hostReset s = .refused .resetDuringSend := if_neg h

/-- Settles O51: PHASE alone decides between the reset and the refusal. -/
theorem hostResetOnlyWhenIdle : Obligations.HostResetOnlyWhenIdle :=
  fun _ => ⟨hostReset_idle, hostReset_busy⟩

/-! ### The longest Wait -/

/-- A Wait comes from a segment, for the closing event is a Write (41_transmitter.md R104, R105). -/
theorem wait_mem_events_iff (pin : PinId) (p : Period9) (segs : List Seg) (n : Nat) :
    .wait n ∈ events pin p segs ↔ ∃ sg ∈ segs, n = sg.2 * p.toNat := by
  simp [events, segEvents]

/-- Every telegram of a plan is sent at least once (41_transmitter.md R103): the converse of `mem_plan`. -/
theorem mem_plan_of_mem_body {w : TritWave} {bodies : List Body} {t : Body} (r : Rep3) {sg : Seg} (ht : t ∈ bodies)
    (hsg : sg ∈ bodySegs w t) : sg ∈ plan w bodies r := by
  have hrepeated : repeats r ≠ 0 := Nat.one_le_iff_ne_zero.1 (repeats_range r).1
  refine List.mem_flatMap.2 ⟨t, ht, List.mem_flatten.2 ⟨bodySegs w t, ?_, hsg⟩⟩
  exact List.mem_replicate.2 ⟨hrepeated, rfl⟩

/-- The Waits of a send are those of its bodies' segments (41_transmitter.md R106 to R108). -/
theorem wait_mem_runEvents_iff (w : TritWave) (a : RunArgs) (n : Nat) :
    .wait n ∈ runEvents w a ↔ ∃ t ∈ runBodies a, ∃ sg ∈ bodySegs w t, n = sg.2 * a.period.toNat := by
  rw [runEvents, wait_mem_events_iff]
  constructor
  · rintro ⟨sg, hsg, hn⟩
    obtain ⟨t, ht, hmem⟩ := mem_plan hsg
    exact ⟨t, ht, sg, hmem, hn⟩
  · rintro ⟨t, ht, sg, hsg, hn⟩
    exact ⟨sg, mem_plan_of_mem_body a.replog ht hsg, hn⟩

/-- The sync's LOW is the longest segment of a body: a trit's waveform takes 6 periods in all
(00_scope.md R6 (a)). -/
theorem bodySegs_periods_le {w : TritWave} (hw : w.Valid) {t : Body} {sg : Seg} (h : sg ∈ bodySegs w t) :
    sg.2 ≤ Config.syncLow := by
  rcases List.mem_append.1 h with hsync | htrits
  · have hle : ∀ sg ∈ sync, sg.2 ≤ Config.syncLow := by decide
    exact hle sg hsync
  · obtain ⟨x, -, hsg⟩ := List.mem_flatMap.1 htrits
    exact (segsValid_le (tritSegs_valid hw x) hsg).trans (by decide)

/-- Every body has the sync's LOW (41_transmitter.md R100, R102). -/
theorem syncLow_mem_bodySegs (w : TritWave) (t : Body) : (.low, Config.syncLow) ∈ bodySegs w t :=
  List.mem_append_left _ (by decide)

theorem bodyA_mem_runBodies (a : RunArgs) : a.bodyA ∈ runBodies a := by
  unfold runBodies
  split <;> exact List.mem_cons_self

/-- Settles O23: no segment is longer than the sync's LOW of 31 periods and no period than 511, and telegram A has
that LOW. -/
theorem noWaitIsLongerThanTheSyncAtFullPeriod : Obligations.NoWaitIsLongerThanTheSyncAtFullPeriod := by
  refine fun w a hw => ⟨fun n hn => ?_, fun hperiod => ?_⟩
  · obtain ⟨t, -, sg, hsg, rfl⟩ := (wait_mem_runEvents_iff w a n).1 hn
    have hp : a.period.toNat ≤ 511 := Nat.le_of_lt_succ a.period.isLt
    calc sg.2 * a.period.toNat ≤ Config.syncLow * 511 := Nat.mul_le_mul (bodySegs_periods_le hw hsg) hp
      _ = 15841 := rfl
  · refine (wait_mem_runEvents_iff w a 15841).2
      ⟨a.bodyA, bodyA_mem_runBodies a, _, syncLow_mem_bodySegs w a.bodyA, ?_⟩
    rw [hperiod]
    rfl

end Sys2Proof.Machine
end
